-- ==== Sys2Proof/Word.lean ====
section
/-!
DEFINITION. The word types of the sampling core. Widths follow rule R7 of spec/00_scope.md, rule R90 of
spec/30_encoding.md and the table of spec/10_state.md. Bit 0 is the least significant bit of every word (R10).
-/

namespace Sys2Proof

/-- One byte on the bus. -/
abbrev Byte := BitVec 8

/-- A channel index, 0 to 7 (R7: NCH = 8). -/
abbrev Chan := BitVec 3

/-- A gain code, 3 bits (R7: CODE_W = 3). -/
abbrev Code := BitVec 3

/-- A mask with one bit per channel: bit n is channel n (R34, R35). -/
abbrev Mask := BitVec 8

/-- A packed word of eight nibbles, channel n at bits 4n+3 to 4n (R21, R98). -/
abbrev Nibw := BitVec 32

/-- The raw sample, 12 bits, two's complement (R7: RAW_W = 12). -/
abbrev Raw := BitVec 12

/-- A voltage in units of 125 microvolts, 17 bits, two's complement (R10, R11). -/
abbrev Volts := BitVec 17

/-- A command word CMD (R90, R91). -/
abbrev Cmd := BitVec 51

/-- The three bytes of a bus operation as the operation table numbers them: byte 0 in bits 23 to 16 (R106). -/
abbrev Frame := BitVec 24

/-- A response word RSP (R90, R93). -/
abbrev Rsp := BitVec 32

/-- A 16-bit device register, most significant byte in bits 15 to 8 (R64, R65). -/
abbrev Reg16 := BitVec 16

end Sys2Proof
end

