-- ==== Sys2Proof/Config.lean ====
section
/-!
DEFINITION. What an implementation fixes (the open parameters of rule R8, spec/00_scope.md) and what the environment
leaves free (its answers to the bus primitives, rules R9 and R62).
-/

namespace Sys2Proof

/-- The open parameters of R8. The model takes them as an argument: they stand in `State.params`, and every statement
over states holds for every value of them. -/
structure Params where
  /-- DEV_ADDR: the device address given to `Bus.begin`. -/
  devAddr : BitVec 7
  /-- PTR_RESULT: the selector of the conversion-result register. -/
  ptrResult : Byte
  /-- PTR_CONFIG: the selector of the status/config register. -/
  ptrConfig : Byte
  /-- CFG_MSB_BIT0: bit 0 of the config MSB that START_CONV writes. -/
  cfgMsbBit0 : BitVec 1
  /-- CFG_LSB: the low byte that START_CONV writes. -/
  cfgLsb : Byte
  deriving DecidableEq, Repr

/-- The default column of R8 (from general knowledge, spec/93 G1 to G3). -/
def Params.default : Params :=
  { devAddr := 0x48#7, ptrResult := 0x00#8, ptrConfig := 0x01#8, cfgMsbBit0 := 1#1, cfgLsb := 0x83#8 }

/-- What the environment does when one bus primitive is issued (R62: every answer of the right shape is admitted).
For BEGIN and END only ok or not ok counts; for READ an `ok` carries the two bytes, first byte received in bits 15
to 8; for WRITE any answer means only that the primitive is over (R60, R97). -/
inductive BusReply where
  /-- Answered `ok`; a READ gets these two bytes, whatever the device's registers hold. -/
  | ok (data : Reg16)
  /-- Answered `err`. `acted` says whether the device took the bytes of the transaction all the same: the core cannot
  know it (R74, R193, R302; spec/93 U25). -/
  | err (acted : Bool)
  /-- Never answered: the core is stuck inside its operation (R62, R278). `acted` as for `err`. -/
  | never (acted : Bool)
  /-- The faithful device of spec/93 G7 answers from its own registers. If `finished` is `some w`, the conversion it
  was running ended before this primitive, with result word w (R73). -/
  | device (finished : Option Reg16)
  deriving DecidableEq, Repr, Inhabited

/-- FREE VALUE: the n-th reply of the environment after the replies already settled in `State.bus.script` have been
used up. Nothing can be proved of it, so a claim holds for every environment (R9, R62; log 3). -/
opaque Config.busReply : Nat → BusReply

end Sys2Proof
end

