-- ==== Sys2Proof/Syntax.lean ====
section
/-!
DEFINITION. The operations of spec/opcode_table.json, one constructor per row: the seven host operations and the
reserved code (format CMD, rule R92 of spec/30_encoding.md), and the three bus operations (format FRAME, rule R106).
-/

namespace Sys2Proof

/-- One operation. Operands have the width of their field, so no operand can be out of range; the ignored bits of a
command word (R91) and the bytes a device sends back (R106) are no operands. -/
inductive Instr where
  /-- CONFIGURE cm am ceil (R211). -/
  | configure (cm am : Mask) (ceil : Nibw)
  /-- START (R212). -/
  | start
  /-- POLL (R213). -/
  | poll
  /-- CONSUME (R241). -/
  | consume
  /-- PEEK (R242). -/
  | peek
  /-- GAINSCALE (R243). -/
  | gainscale
  /-- PRECISION (R244). -/
  | precision
  /-- The reserved operation code 0b111 (R263). -/
  | reservedOp7
  /-- STATUS_READ (R191): no operands. -/
  | statusRead
  /-- RESULT_READ (R192): no operands. -/
  | resultRead
  /-- START_CONV(c, g) (R193). -/
  | startConv (c : Chan) (g : Code)
  deriving DecidableEq, Repr

/-- The operations a host can issue: the rows of format CMD (R107). The three bus operations are "issued only from
inside START and POLL" (spec/43_bus_operations.md). -/
def Instr.isHostOp : Instr → Bool
  | .configure _ _ _ => true
  | .start => true
  | .poll => true
  | .consume => true
  | .peek => true
  | .gainscale => true
  | .precision => true
  | .reservedOp7 => true
  | .statusRead => false
  | .resultRead => false
  | .startConv _ _ => false

end Sys2Proof
end

