-- ==== Sys2Proof/WellFormed.lean ====
section
/-!
DEFINITION. Which instructions and which parameters are well formed.
-/

namespace Sys2Proof

/-- The parameters name two registers: the two selectors differ (R64 gives one selector to each register). -/
def Params.wellFormed (P : Params) : Bool := P.ptrConfig != P.ptrResult

/-- Whether an operation has a meaning under the parameters. No operand value is illegal (R99, R108, R193), so a host
operation is always well formed; a bus operation needs parameters under which the two device registers are two. -/
def Instr.wellFormed (P : Params) : Instr → Bool
  | .configure _ _ _ => true
  | .start => true
  | .poll => true
  | .consume => true
  | .peek => true
  | .gainscale => true
  | .precision => true
  | .reservedOp7 => true
  | .statusRead => P.wellFormed
  | .resultRead => P.wellFormed
  | .startConv _ _ => P.wellFormed

end Sys2Proof
end

