-- ==== Sys2Proof/Decode.lean ====
section
/-!
DEFINITION. From the words of spec/opcode_table.json to operations and back (spec/30_encoding.md, R90 to R92, R98 to
R109).
-/

namespace Sys2Proof

/-- A word as it is given to the core: a command word, or a request to run one bus operation by itself (log 10). -/
inductive Encoded where
  | cmd (w : Cmd)
  | frame (w : Frame)
  deriving DecidableEq, Repr

/-- Why a word is no operation. -/
inductive DecodeError where
  /-- A frame whose first byte is neither PTR_CONFIG nor PTR_RESULT: no such register exists (R64, R195). -/
  | noSuchSelector
  deriving DecidableEq, Repr

/-- CMD bits [50:48]: the operation code (R91). -/
def Cmd.op (w : Cmd) : BitVec 3 := w.extractLsb' 48 3

/-- CMD bits [47:40]: the ChannelMask operand (R91, R99). -/
def Cmd.cm (w : Cmd) : Mask := w.extractLsb' 40 8

/-- CMD bits [39:32]: the AutoGainMask operand (R91, R99). -/
def Cmd.am (w : Cmd) : Mask := w.extractLsb' 32 8

/-- CMD bits [31:0]: the ceiling operand (R91, R98). -/
def Cmd.ceil (w : Cmd) : Nibw := w.extractLsb' 0 32

/-- Decode a command word: R92, R107. Total, since all eight codes answer something; bits [47:0] count for CONFIGURE
only (R91). -/
def decodeCmd (w : Cmd) : Instr :=
  match w.op.toNat with
  | 0 => .configure w.cm w.am w.ceil
  | 1 => .start
  | 2 => .poll
  | 3 => .consume
  | 4 => .peek
  | 5 => .gainscale
  | 6 => .precision
  | _ => .reservedOp7

/-- Decode a request for one bus operation: R106. Bit 15 is the one bit the table fixes, and only START_CONV has it: in
a request the bytes that the two reads will receive are not there yet and stand as zero, so a 1 in bit 15 is
START_CONV's. Its selector, CFG_MSB_BIT0 and CFG_LSB bits are no operands (R193) but the parameters of R8, and are not
read here. Otherwise the selector tells the two reads apart. DESIGN CHOICE, log 11. -/
def decodeFrame (P : Params) (w : Frame) : Except DecodeError Instr :=
  if w.getLsbD 15 then .ok (.startConv (w.extractLsb' 12 3) (w.extractLsb' 9 3))
  else if w.extractLsb' 16 8 = P.ptrConfig then .ok .statusRead
  else if w.extractLsb' 16 8 = P.ptrResult then .ok .resultRead
  else .error .noSuchSelector

/-- The decoder, total on every word of either format. -/
def decode (P : Params) : Encoded → Except DecodeError Instr
  | .cmd w => .ok (decodeCmd w)
  | .frame w => decodeFrame P w

/-- A CMD word from its four fields (R91). -/
def cmdWord (op : BitVec 3) (cm am : Mask) (ceil : Nibw) : Cmd := op ++ cm ++ am ++ ceil

/-- The config MSB as START_CONV writes it (R101): start bit 1, channel in [6:4], gain code in [3:1], CFG_MSB_BIT0. -/
def configMsb (P : Params) (c : Chan) (g : Code) : Byte := 1#1 ++ c ++ g ++ P.cfgMsbBit0

/-- The encoder: the word of an operation, bits [47:0] of an operation without operands zero (R91, R110), and the bytes
a read will receive zero. -/
def encode (P : Params) : Instr → Encoded
  | .configure cm am ceil => .cmd (cmdWord 0 cm am ceil)
  | .start => .cmd (cmdWord 1 0 0 0)
  | .poll => .cmd (cmdWord 2 0 0 0)
  | .consume => .cmd (cmdWord 3 0 0 0)
  | .peek => .cmd (cmdWord 4 0 0 0)
  | .gainscale => .cmd (cmdWord 5 0 0 0)
  | .precision => .cmd (cmdWord 6 0 0 0)
  | .reservedOp7 => .cmd (cmdWord 7 0 0 0)
  | .statusRead => .frame (P.ptrConfig ++ 0#16)
  | .resultRead => .frame (P.ptrResult ++ 0#16)
  | .startConv c g => .frame (P.ptrConfig ++ configMsb P c g ++ P.cfgLsb)

/-- A word of the operation table by its width: 24 bits are a FRAME, 51 bits (56 in whole bytes) a CMD, whose bits above
50 do not exist. -/
def tableWord (nbits w : Nat) : Option Encoded :=
  if nbits = 24 then some (.frame (BitVec.ofNat 24 w))
  else if (nbits = 51 ∨ nbits = 56) ∧ w < 2 ^ 51 then some (.cmd (BitVec.ofNat 51 w))
  else none

/-- What the decoder reads from a word of the operation table, at the default parameters. -/
def decodeTableWord (nbits w : Nat) : Option Instr :=
  match tableWord nbits w with
  | none => none
  | some e =>
    match decode Params.default e with
    | .ok i => some i
    | .error _ => none

end Sys2Proof
end

