-- ==== Sys2Proof/Machine/State.lean ====
section
/-!
DEFINITION. The state of the machine as plain data: the 105 bits of spec/10_state.md, the ports of spec/30_encoding.md,
the environment that rule R40 says a model must carry, and the reasons a step can stop.
-/

namespace Sys2Proof.Machine

/-- The SampleCache entry (R38). -/
structure Cache where
  /-- The channel of the cached value. -/
  ch : Chan
  /-- The voltage, signed, in units of 125 microvolts. -/
  vq : Volts
  /-- The gain code the device echoed for that sample, as echoed. -/
  gain : Code
  deriving DecidableEq, Repr

/-- The architectural state of the core, 105 bits (spec/10_state.md, section 1). -/
structure Regs where
  /-- ChannelMask (R34). -/
  cm : Mask
  /-- AutoGainMask (R35). -/
  am : Mask
  /-- The packed ceilings GC[0..7] (R36). -/
  gcw : Nibw
  /-- The packed current gain codes GS[0..7] (R20, R21). -/
  gsw : Nibw
  /-- A result waits to be consumed (R28). -/
  ready : Bool
  /-- A start-conversion has completed since the last CONFIGURE (R29). -/
  armed : Bool
  /-- The SampleCache (R38). -/
  cache : Cache
  deriving DecidableEq, Repr

/-- All zero: the reset values of R42 and R291. -/
def Regs.zero : Regs :=
  { cm := 0#8, am := 0#8, gcw := 0#32, gsw := 0#32, ready := false, armed := false
    cache := { ch := 0#3, vq := 0#17, gain := 0#3 } }

/-- A bus primitive with its argument (R60). -/
inductive BusPrim where
  /-- `Bus.begin(a)`. -/
  | beginTxn (a : BitVec 7)
  /-- `Bus.write(b)`. -/
  | writeByte (b : Byte)
  /-- `Bus.read(n)`. -/
  | readBytes (n : Nat)
  /-- `Bus.end()`. -/
  | endTxn
  deriving DecidableEq, Repr

/-- The three bus operations as the info field numbers them (R95). -/
inductive Txn where
  | statusRead
  | resultRead
  | startConv
  deriving DecidableEq, Repr

/-- What failed inside a bus operation (R95). -/
inductive FailKind where
  /-- `Bus.begin` answered err. -/
  | onBegin
  /-- `Bus.end` answered err. -/
  | onEnd
  /-- `Bus.read(2)` answered err: wrong byte count (R67). -/
  | onCount
  deriving DecidableEq, Repr

/-- The ADC device as far as the spec gives it (R40, R64; the faithful device of spec/93 G7). Environment, not core: no
reset of the core touches it. -/
structure Device where
  /-- The selector byte last taken: which register a read returns. -/
  selector : Byte
  /-- The config register below its ready bit: channel in [14:12], gain code in [11:9] (R101). -/
  config : BitVec 15
  /-- The ready bit: no conversion is running. -/
  done : Bool
  /-- The conversion-result register. -/
  result : Reg16
  /-- The bytes written since the last `Bus.begin`, oldest first. -/
  inbox : List Byte
  deriving DecidableEq, Repr

/-- The bus and what is behind it: the environment of R6 (c), with the trace of R78. -/
structure Bus where
  /-- The environment's replies that are already settled, oldest first; after them the replies are free. -/
  script : List BusReply
  /-- How many free replies have been drawn: the argument of the next `Config.busReply`. -/
  drawn : Nat
  /-- Every primitive issued so far with its argument, oldest first (R78). -/
  trace : List BusPrim
  /-- The device's registers. -/
  dev : Device
  deriving DecidableEq, Repr

/-- What the host puts on its port (R96): a word (accepted if `cmd_ready` is 1), or `rst`. -/
inductive PortInput where
  | rst
  | word (e : Encoded)
  deriving DecidableEq, Repr

/-- A host operation that waits for an answer to a bus primitive that does not come (R62, R278 a). -/
structure InFlight where
  /-- The bus operation under way. -/
  txn : Txn
  /-- The primitive outstanding on the bus-primitive port (R97). -/
  prim : BusPrim
  /-- A POLL past the STATUS_READ that saw the ready bit: `fsm` shows ResultPending (R31, R213 step 3). -/
  resultPending : Bool
  deriving DecidableEq, Repr

/-- The transient fields STATUS_READ decodes (R103, R191). -/
structure StatusBits where
  devReady : Bool
  ch : Chan
  gain : Code
  deriving DecidableEq, Repr

/-- What a bus operation run by itself hands back (R190 to R193). -/
inductive BusResult where
  /-- STATUS_READ's (dev_ready, ch, g). -/
  | status (st : StatusBits)
  /-- RESULT_READ's raw sample. -/
  | sample (raw : Raw)
  /-- START_CONV has no result. -/
  | started
  /-- It raised CommError(txn, kind). -/
  | commError (t : Txn) (k : FailKind)
  deriving DecidableEq, Repr

/-- The whole machine. -/
structure State where
  /-- The open parameters (R8); no step writes them. -/
  params : Params
  /-- The core's registers. -/
  regs : Regs
  /-- The environment. -/
  bus : Bus
  /-- What the host presents, first thing first. -/
  inputs : List PortInput
  /-- The response port: `some w` is `rsp_valid = 1` with the word w (R96). -/
  rsp : Option Rsp
  /-- `some` while an operation is stuck; then `cmd_ready` is 0. -/
  inFlight : Option InFlight
  /-- What the last bus operation run by itself handed back; dead after a host operation (R41). -/
  busResult : Option BusResult
  deriving DecidableEq, Repr

/-- Why the machine stops. Raised by nothing: "The core itself can neither fault nor halt" (R278). The one constructor is
what that rule excludes, so that the rule can be stated of `step`. -/
inductive Fault where
  /-- The core has halted. No definition of the model raises it (safe: nothing stops). -/
  | coreHalted
  deriving DecidableEq, Repr

/-- Why an instruction has no meaning. -/
inductive Refusal where
  /-- An instruction whose arm in Dispatch has no meaning yet; raised by `exec` only. Safe. -/
  | notModelled (mnemonic : String)
  /-- A request for a bus operation that names a register the device does not have (R64, R195); raised by `step` when its
  decoder rejects the word. No command word is ever refused. Safe. -/
  | noSuchFrame
  deriving DecidableEq, Repr

/-- The device as it is when nothing has been written to it. The config word is the power-on value 0x8583 of spec/93 G2;
selector and result are the family's. PRESUMED, unsafe, log 7. -/
def Device.powerOn : Device :=
  { selector := 0x00#8, config := 0x0583#15, done := true, result := 0x0000#16, inbox := [] }

/-- The machine right after reset: R42, R291; the default parameters of R8; nothing on the bus; no input yet. -/
def State.reset : State :=
  { params := Params.default
    regs := Regs.zero
    bus := { script := [], drawn := 0, trace := [], dev := Device.powerOn }
    inputs := []
    rsp := none
    inFlight := none
    busResult := none }

end Sys2Proof.Machine
end

