-- ==== Sys2Proof/Machine/Operands.lean ====
section
/-!
DEFINITION. Operand forms: the packed nibble words (R150 to R152, R98), the mask bits, the fields of the device's bytes
(R103, R104), and the magnitude of a sample (R10).
-/

namespace Sys2Proof.Machine

/-- The eight channel indices in ascending order (R7). -/
def allChans : List Chan := [0#3, 1#3, 2#3, 3#3, 4#3, 5#3, 6#3, 7#3]

/-- CEIL_MAX (R7): the canonical maximum gain code. -/
def ceilMax : Code := 5#3

/-- NIB_READ (R150): the low three bits of channel n's nibble. -/
def nibRead (w : Nibw) (n : Chan) : Code := w.extractLsb' (4 * n.toNat) 3

/-- NIB_CLEAR (R151): all four bits of channel n's nibble become 0. -/
def nibClear (w : Nibw) (n : Chan) : Nibw := w &&& ~~~(0xF#32 <<< (4 * n.toNat))

/-- NIB_WRITE (R152): channel n's nibble becomes {0, c}. -/
def nibWrite (w : Nibw) (n : Chan) (c : Code) : Nibw := nibClear w n ||| (c.setWidth 32 <<< (4 * n.toNat))

/-- Bit 4n+3 of a packed word, which is 0 in both state words (R21, R26 I1). -/
def nibTop (w : Nibw) (n : Chan) : Bool := w.getLsbD (4 * n.toNat + 3)

/-- Bit n of a mask (R34, R35). -/
def maskBit (m : Mask) (n : Chan) : Bool := m.getLsbD n.toNat

/-- GS[n], the current gain code of channel n (R20, R21). -/
def Regs.gs (r : Regs) (n : Chan) : Code := nibRead r.gsw n

/-- GC[n], the ceiling of channel n (R20, R21). -/
def Regs.gc (r : Regs) (n : Chan) : Code := nibRead r.gcw n

/-- The smaller of two gain codes, as unsigned values (R10). -/
def minCode (a b : Code) : Code := if a ≤ b then a else b

/-- Ceiling normalisation of one channel of the `ceil` operand (R98): bit 4n+3 ignored, 6 and 7 become 5. -/
def normCeil (ceil : Nibw) (n : Chan) : Code := minCode (nibRead ceil n) ceilMax

/-- A packed word with `f n` in channel n's nibble, built as CONFIGURE's loop builds it (R211). -/
def packNibs (f : Chan → Code) : Nibw := allChans.foldl (fun w n => nibWrite w n (f n)) 0#32

/-- GCW' of CONFIGURE (R211). -/
def initGcw (ceil : Nibw) : Nibw := packNibs (normCeil ceil)

/-- GSW' of CONFIGURE (R23, R211): 0 for an auto channel, the normalised ceiling for a fixed one. -/
def initGsw (am : Mask) (ceil : Nibw) : Nibw := packNibs fun n => if maskBit am n then 0#3 else normCeil ceil n

/-- The fields of the status register as read, first byte received in bits 15 to 8 (R65, R103): dev_ready = b0[7],
ch = b0[6:4], g = b0[3:1]; b0[0] and b1 are ignored. -/
def statusOf (d : Reg16) : StatusBits :=
  { devReady := d.getLsbD 15, ch := d.extractLsb' 12 3, gain := d.extractLsb' 9 3 }

/-- The raw sample of the result register (R104): the top 12 bits; the low four are ignored. -/
def rawOf (d : Reg16) : Raw := d.extractLsb' 4 12

/-- abs12 (R10): the magnitude of a signed sample as a 12-bit unsigned value, 2048 for -2048. -/
def abs12 (raw : Raw) : BitVec 12 := BitVec.ofNat 12 raw.toInt.natAbs

end Sys2Proof.Machine
end

