-- ==== Sys2Proof/Machine/Flags.lean ====
section
/-!
DEFINITION. Flags: the band of a magnitude and the overflow and valid flags (R33, R135, R154), and the level outputs and
port signals that are functions of the state (R31, R43, R96, R97).
-/

namespace Sys2Proof.Machine

/-- T_INC (R7): magnitudes strictly below it are candidates for a gain increase. -/
def tInc : Nat := 1024

/-- T_DEC (R7): magnitudes strictly above it are candidates for decrease or overflow. -/
def tDec : Nat := 1945

/-- T_OVF (R7): magnitudes greater than or equal to it are overflow. -/
def tOvf : Nat := 2045

/-- The bands of the magnitude (R154). -/
inductive Band where
  | increase
  | hold
  | decrease
  | overflow
  deriving DecidableEq, Repr

/-- The band a magnitude lies in (R154, R155; spec/90 C2: overflow is `>= 2045`). -/
def band (a : Nat) : Band :=
  if a < tInc then .increase
  else if a > tDec then (if a ≥ tOvf then .overflow else .decrease)
  else .hold

/-- The overflow flag of a sample on channel n (R135, R161 item 3): an auto channel and a magnitude of 2045 or more. -/
def overflowed (am : Mask) (n : Chan) (raw : Raw) : Bool := maskBit am n && decide (band (abs12 raw).toNat = .overflow)

/-- The valid flag that travels with a voltage (R33, R135). -/
def validOf (ovf : Bool) : Bool := !ovf

/-- The two-bit name of the flags between operations (R31; spec/90 C4: ResultReady whenever `ready` is 1). -/
def fsmOfFlags (ready armed : Bool) : BitVec 2 := if ready then 0b11#2 else if armed then 0b01#2 else 0b00#2

/-- The level output `ready` (R43). -/
def State.readyOut (s : State) : Bool := s.regs.ready

/-- The level output `fsm` (R31, R43): ResultPending while a POLL stands past its STATUS_READ, else the flags' name. -/
def State.fsmOut (s : State) : BitVec 2 :=
  match s.inFlight with
  | some f => if f.resultPending then 0b10#2 else fsmOfFlags s.regs.ready s.regs.armed
  | none => fsmOfFlags s.regs.ready s.regs.armed

/-- `cmd_ready` (R96): 0 from acceptance until the response. -/
def State.cmdReady (s : State) : Bool := s.inFlight.isNone

/-- `rsp_valid` (R96). -/
def State.rspValid (s : State) : Bool := s.rsp.isSome

/-- `bus_req_valid` between steps (R97): a request is outstanding only when an operation is stuck on it. It stays 1 as long
as the answer has not come, whether or not `bus_req_ready` has accepted the request: DESIGN CHOICE, R97 is silent on the
time between the two (log 22). -/
def State.busReqValid (s : State) : Bool := s.inFlight.isSome

/-- `bus_req_kind` of a primitive (R97). -/
def BusPrim.kindCode : BusPrim → BitVec 2
  | .beginTxn _ => 0
  | .writeByte _ => 1
  | .readBytes _ => 2
  | .endTxn => 3

/-- `bus_req_arg` of a primitive (R97). -/
def BusPrim.argCode : BusPrim → BitVec 8
  | .beginTxn a => 0#1 ++ a
  | .writeByte b => b
  | .readBytes n => BitVec.ofNat 8 n
  | .endTxn => 0

end Sys2Proof.Machine
end

