-- ==== Sys2Proof/Machine/Ops.lean ====
section
/-!
DEFINITION. The shared operations: the gain table and converter (spec/40), the gain controller (spec/41), the scheduler
(spec/42), the bus primitives and bus operations (spec/20, spec/43), responses, and the one way an operation responds,
raises an exception or gets stuck (spec/00 R10, spec/60).
-/

namespace Sys2Proof.Machine

/-! ### LOOKUP and CONVERT (spec/40) -/

/-- An entry of the gain table (R130). -/
structure GainEntry where
  /-- The source's scale, in microvolts per count. -/
  microvolts : Nat
  /-- M: the scale in units of 125 microvolts per count. -/
  m : BitVec 5
  /-- The decimal precision digits. -/
  digits : BitVec 3
  deriving DecidableEq, Repr

/-- LOOKUP, the GainTable (R130). -/
def lookup (code : Code) : GainEntry :=
  match code.toNat with
  | 0 => { microvolts := 3000, m := 24, digits := 3 }
  | 1 => { microvolts := 2000, m := 16, digits := 3 }
  | 2 => { microvolts := 1000, m := 8, digits := 3 }
  | 3 => { microvolts := 500, m := 4, digits := 4 }
  | 4 => { microvolts := 250, m := 2, digits := 5 }
  | _ => { microvolts := 125, m := 1, digits := 6 }

/-- CONVERT (R132): the exact signed product raw × M, narrowed to 17 bits (R133: it always fits). -/
def convert (raw : Raw) (g : Code) : Volts := BitVec.ofInt 17 (raw.toInt * (lookup g).m.toNat)

/-! ### The gain controller (spec/41) -/

/-- SEARCH_NUM (R7): the numerator of the search threshold. -/
def searchNum : Nat := 6144

/-- The initial divisor of the search (R155, R7: J0_ZERO, J0_NONZERO). -/
def searchJ0 (cur : Code) : Nat := if cur = 0#3 then 6 else 8

/-- The loop of R155: while `code < 5`, one more step if `a < 6144 / j`, doubling j; at most `fuel` rounds. -/
def searchFrom (a : Nat) : (fuel code j : Nat) → Nat
  | 0, code, _ => code
  | fuel + 1, code, j =>
    if code < 5 then
      if a < searchNum / j then searchFrom a fuel (code + 1) (2 * j) else code
    else code

/-- The code the search reaches from `cur`, before the clamp. The loop runs at most five rounds (R156). -/
def search (a : Nat) (cur : Code) : Code := BitVec.ofNat 3 (searchFrom a 5 cur.toNat (searchJ0 cur))

/-- The new code of an auto channel with ceiling `gc` (R155). -/
def adjustAuto (gc cur : Code) (a : Nat) : Code :=
  match band a with
  | .increase => minCode (search a cur) gc
  | .hold => cur
  | .decrease => if cur = 0#3 then 0#3 else cur - 1#3
  | .overflow => 0#3

/-- ADJUST (R155): the new code and the overflow flag. A fixed channel is left alone. -/
def adjust (r : Regs) (n : Chan) (cur : Code) (raw : Raw) : Code × Bool :=
  if maskBit r.am n then (adjustAuto (r.gc n) cur (abs12 raw).toNat, overflowed r.am n raw) else (cur, false)

/-! ### The scheduler (spec/42) -/

/-- Where the scan starts (R180). -/
def scanStart : Option Chan → Chan
  | none => 0#3
  | some l => l + 1#3

/-- NEXT (R180): the first enabled channel among all eight, cyclically from `scanStart`. -/
def next (cm : Mask) (last : Option Chan) : Option Chan :=
  (allChans.map (scanStart last + ·)).find? (maskBit cm)

/-! ### The device (spec/20 R64, R69; spec/93 G7) -/

/-- The device takes the bytes of a finished transaction: a selector byte; and after PTR_CONFIG two bytes with bit 15 set
store the config register, clear the ready bit and begin a conversion (R69 a, spec/93 G7). -/
def Device.accept (P : Params) (d : Device) : Device :=
  match d.inbox with
  | [p] => { d with selector := p, inbox := [] }
  | [p, msb, lsb] =>
    if p = P.ptrConfig ∧ msb.getLsbD 7 then
      { d with selector := p, inbox := [], config := msb.extractLsb' 0 7 ++ lsb, done := false }
    else { d with selector := p, inbox := [] }
  | _ => { d with inbox := [] }

/-- The running conversion ends with result `w`; nothing happens where none is running. -/
def Device.finish (d : Device) : Option Reg16 → Device
  | some w => if d.done then d else { d with done := true, result := w }
  | none => d

/-- The device's side of one primitive; `acted` says whether it takes a transaction that ends here. -/
def Device.step (P : Params) (p : BusPrim) (acted : Bool) (d : Device) : Device :=
  match p with
  | .beginTxn _ => { d with inbox := [] }
  | .writeByte b => { d with inbox := d.inbox ++ [b] }
  | .readBytes _ => d
  | .endTxn => if acted then d.accept P else { d with inbox := [] }

/-- The config register as it reads: the ready bit in bit 15 (R103, spec/93 G7). -/
def Device.status (d : Device) : Reg16 := BitVec.ofBool d.done ++ d.config

/-- What the device answers for itself to a primitive: a read gets the selected register, and fails where the selector
names none (R64). -/
def Device.answer (P : Params) (p : BusPrim) (d : Device) : Bool × Reg16 :=
  match p with
  | .readBytes _ =>
    if d.selector = P.ptrConfig then (true, d.status)
    else if d.selector = P.ptrResult then (true, d.result)
    else (false, 0#16)
  | _ => (true, 0#16)

/-! ### Bus primitives (spec/20 R60 to R63) -/

/-- The next reply of the environment: the settled ones first, then a free one. -/
def Bus.draw (b : Bus) : BusReply × Bus :=
  match b.script with
  | r :: rest => (r, { b with script := rest })
  | [] => (Config.busReply b.drawn, { b with drawn := b.drawn + 1 })

/-- What a reply says to a primitive, given the device: `none` is never answered, else ok or err with the data. -/
def replyAnswer (P : Params) (p : BusPrim) (d : Device) : BusReply → Option (Bool × Reg16)
  | .ok data => some (true, data)
  | .err _ => some (false, 0#16)
  | .never _ => none
  | .device finished => some ((d.finish finished).answer P p)

/-- What a reply makes of the device. -/
def replyEffect (P : Params) (p : BusPrim) (d : Device) : BusReply → Device
  | .ok _ => d.step P p true
  | .err acted => d.step P p acted
  | .never acted => d.step P p acted
  | .device finished => (d.finish finished).step P p true

/-- The bus after a primitive: recorded in the trace (R78), the device moved on. -/
def Bus.after (P : Params) (p : BusPrim) (r : BusReply) (b : Bus) : Bus :=
  { b with trace := b.trace ++ [p], dev := replyEffect P p b.dev r }

/-- The failure a primitive can report (R190, R194): a WRITE has no answer and cannot fail by itself. -/
def BusPrim.failKind : BusPrim → Option FailKind
  | .beginTxn _ => some .onBegin
  | .writeByte _ => none
  | .readBytes _ => some .onCount
  | .endTxn => some .onEnd

/-- How a piece of bus activity ends. -/
inductive BusOut (α : Type) where
  /-- Done, with its result. -/
  | done (a : α) (b : Bus)
  /-- CommError(txn, kind): the first `err` (R63). -/
  | failed (t : Txn) (k : FailKind) (b : Bus)
  /-- A primitive that is never answered (R62, R278 a). -/
  | stuck (t : Txn) (p : BusPrim) (b : Bus)
  deriving DecidableEq, Repr

/-- Go on after bus activity that is done; after a failure or a stop issue nothing more (R63). -/
def BusOut.andThen {α β : Type} (o : BusOut α) (f : α → Bus → BusOut β) : BusOut β :=
  match o with
  | .done a b => f a b
  | .failed t k b => .failed t k b
  | .stuck t p b => .stuck t p b

/-- Issue one primitive of bus operation `t` (R60, R62). -/
def Bus.call (P : Params) (t : Txn) (p : BusPrim) (b : Bus) : BusOut Reg16 :=
  match replyAnswer P p b.dev b.draw.1 with
  | none => .stuck t p (b.draw.2.after P p b.draw.1)
  | some (true, data) => .done data (b.draw.2.after P p b.draw.1)
  | some (false, data) =>
    match p.failKind with
    | some k => .failed t k (b.draw.2.after P p b.draw.1)
    | none => .done data (b.draw.2.after P p b.draw.1)

/-- Issue primitives in order (R71); the result is that of the last. -/
def Bus.calls (P : Params) (t : Txn) : List BusPrim → Reg16 → Bus → BusOut Reg16
  | [], d, b => .done d b
  | p :: ps, _, b => (b.call P t p).andThen (Bus.calls P t ps)

/-! ### Bus operations (spec/43) -/

/-- The primitives of REG_READ of selector `ptr` (R190). -/
def readPrims (P : Params) (ptr : Byte) : List BusPrim :=
  [.beginTxn P.devAddr, .writeByte ptr, .endTxn, .readBytes 2]

/-- The primitives of START_CONV(c, g) (R193). -/
def startPrims (P : Params) (c : Chan) (g : Code) : List BusPrim :=
  [.beginTxn P.devAddr, .writeByte P.ptrConfig, .writeByte (configMsb P c g), .writeByte P.cfgLsb, .endTxn]

/-- REG_READ (R190): the two bytes, first received in bits 15 to 8. -/
def Bus.regRead (P : Params) (t : Txn) (ptr : Byte) (b : Bus) : BusOut Reg16 := b.calls P t (readPrims P ptr) 0#16

/-- STATUS_READ (R191). -/
def Bus.statusRead (P : Params) (b : Bus) : BusOut StatusBits :=
  (b.regRead P .statusRead P.ptrConfig).andThen fun d b => .done (statusOf d) b

/-- RESULT_READ (R192). -/
def Bus.resultRead (P : Params) (b : Bus) : BusOut Raw :=
  (b.regRead P .resultRead P.ptrResult).andThen fun d b => .done (rawOf d) b

/-- START_CONV(c, g) (R193). -/
def Bus.startConv (P : Params) (c : Chan) (g : Code) (b : Bus) : BusOut Unit :=
  (b.calls P .startConv (startPrims P c g) 0#16).andThen fun _ b => .done () b

/-! ### Responses (spec/30 R93 to R95, spec/60 R260) -/

/-- The status of a response (R94). -/
inductive Status where
  | ok
  | busy
  | channelReady
  | commError
  | noChannelSelected
  | illegalOp
  deriving DecidableEq, Repr

/-- The numeric status codes (R94). -/
def Status.code : Status → BitVec 3
  | .ok => 0
  | .busy => 1
  | .channelReady => 2
  | .commError => 3
  | .noChannelSelected => 4
  | .illegalOp => 7

/-- The fields of a response word; a field an operation does not mention is zero (R93). -/
structure Response where
  status : Status
  v : Bool := false
  ch : Chan := 0
  gain : Code := 0
  info : BitVec 4 := 0
  data : BitVec 17 := 0
  deriving DecidableEq, Repr

/-- The response word (R93): status, v, ch, gain, info, a zero bit, data. -/
def Response.word (r : Response) : Rsp :=
  r.status.code ++ BitVec.ofBool r.v ++ r.ch ++ r.gain ++ r.info ++ 0#1 ++ r.data

/-- info[1:0], the bus operation that failed (R95). -/
def Txn.code : Txn → BitVec 2
  | .statusRead => 1
  | .resultRead => 2
  | .startConv => 3

/-- info[3:2], what failed (R95). -/
def FailKind.code : FailKind → BitVec 2
  | .onBegin => 1
  | .onEnd => 2
  | .onCount => 3

/-- The exceptions (R10, R260). -/
inductive Exc where
  | commError (t : Txn) (k : FailKind)
  | noChannelSelected
  | illegalOp
  deriving DecidableEq, Repr

/-- The response of an exception (R10, R260, R263): its status, `info` for CommError, and v. The first two come from POLL and
START alone, where v is `ready` after the operation, which an exception does not change (R93, R269; log 12); for the
reserved code v is 0. Every other field is zero. -/
def Exc.response (ready : Bool) : Exc → Response
  | .commError t k => { status := .commError, v := ready, info := k.code ++ t.code }
  | .noChannelSelected => { status := .noChannelSelected, v := ready }
  | .illegalOp => { status := .illegalOp }

/-! ### How a host operation ends (spec/00 R10, spec/20 R74, spec/60 R269) -/

/-- `respond`: commit the pending registers and produce the response. -/
def State.respond (s : State) (regs : Regs) (r : Response) (b : Bus) : State :=
  { s with regs := regs, bus := b, rsp := some r.word, busResult := none }

/-- `raise`, taking an exception: no register changes; the response carries the status; what the bus saw stays. There is
nothing saved, no handler and no return from it (R269, R270). -/
def State.raise (s : State) (e : Exc) (b : Bus) : State :=
  { s with bus := b, rsp := some (e.response s.regs.ready).word, busResult := none }

/-- Stuck at a primitive that is never answered (R62, R278 a): no response, no commit, `cmd_ready` 0. -/
def State.hang (s : State) (t : Txn) (p : BusPrim) (pending : Bool) (b : Bus) : State :=
  { s with bus := b, rsp := none, busResult := none, inFlight := some { txn := t, prim := p, resultPending := pending } }

/-- A host operation after bus activity: go on, raise CommError, or be stuck. `pending` says whether `fsm` shows
ResultPending meanwhile (R31). -/
def State.onBus {α : Type} (s : State) (pending : Bool) (o : BusOut α) (k : α → Bus → State) : State :=
  match o with
  | .done a b => k a b
  | .failed t f b => s.raise (.commError t f) b
  | .stuck t p b => s.hang t p pending b

/-- A bus operation run by itself hands back its result (log 10); no register of the core changes, no response. -/
def State.handBack (s : State) (r : BusResult) (b : Bus) : State :=
  { s with bus := b, rsp := none, busResult := some r }

/-- A bus operation run by itself, to its end. -/
def State.runBus {α : Type} (s : State) (o : BusOut α) (f : α → BusResult) : State :=
  match o with
  | .done a b => s.handBack (f a) b
  | .failed t k b => s.handBack (.commError t k) b
  | .stuck t p b => s.hang t p false b

/-- The response of the four accessors (R241 to R244): OK, v = `ready` before, the cache's channel and gain. -/
def accessorResponse (r : Regs) (data : BitVec 17) : Response :=
  { status := .ok, v := r.ready, ch := r.cache.ch, gain := r.cache.gain, data := data }

end Sys2Proof.Machine
end

