-- ==== Sys2Proof/Machine/BusFrames.lean ====
section
/-!
DEFINITION. The meanings of the three bus operations (spec/43_bus_operations.md) where one is run by itself. START and
POLL run the same `Bus.statusRead`, `Bus.resultRead` and `Bus.startConv` (log 10).
-/

namespace Sys2Proof.Machine

/-- STATUS_READ (R191). -/
def execStatusRead (s : State) : Host.Outcome State Fault Refusal :=
  .next (s.runBus (s.bus.statusRead s.params) .status)

/-- RESULT_READ (R192). -/
def execResultRead (s : State) : Host.Outcome State Fault Refusal :=
  .next (s.runBus (s.bus.resultRead s.params) .sample)

/-- START_CONV(c, g) (R193). -/
def execStartConv (c : Chan) (g : Code) (s : State) : Host.Outcome State Fault Refusal :=
  .next (s.runBus (s.bus.startConv s.params c g) fun _ => .started)

end Sys2Proof.Machine
end

