-- ==== Sys2Proof/Machine/CacheOps.lean ====
section
/-!
DEFINITION. The meanings of CONSUME, PEEK, GAINSCALE and PRECISION (spec/45_sample_cache.md) and of the reserved
operation code (spec/60_exceptions.md R263). None of them touches the bus.
-/

namespace Sys2Proof.Machine

/-- CONSUME (R241). -/
def execConsume (s : State) : Host.Outcome State Fault Refusal :=
  .next (s.respond { s.regs with ready := false } (accessorResponse s.regs s.regs.cache.vq) s.bus)

/-- PEEK (R242). -/
def execPeek (s : State) : Host.Outcome State Fault Refusal :=
  .next (s.respond s.regs (accessorResponse s.regs s.regs.cache.vq) s.bus)

/-- GAINSCALE (R243). -/
def execGainscale (s : State) : Host.Outcome State Fault Refusal :=
  .next (s.respond s.regs (accessorResponse s.regs ((lookup s.regs.cache.gain).m.setWidth 17)) s.bus)

/-- PRECISION (R244). -/
def execPrecision (s : State) : Host.Outcome State Fault Refusal :=
  .next (s.respond s.regs (accessorResponse s.regs ((lookup s.regs.cache.gain).digits.setWidth 17)) s.bus)

/-- The reserved operation code (R263). -/
def execReservedOp7 (s : State) : Host.Outcome State Fault Refusal := .next (s.raise .illegalOp s.bus)

end Sys2Proof.Machine
end

