-- ==== Sys2Proof/Machine/ConversionOps.lean ====
section
/-!
DEFINITION. The meanings of CONFIGURE, START and POLL (spec/44_conversion_state_machine.md).
-/

namespace Sys2Proof.Machine

/-- The registers CONFIGURE leaves (R211). -/
def configured (cm am : Mask) (ceil : Nibw) : Regs :=
  { cm := cm, am := am, gcw := initGcw ceil, gsw := initGsw am ceil, ready := false, armed := false
    cache := { ch := 0#3, vq := 0#17, gain := 0#3 } }

/-- CONFIGURE (R211). -/
def execConfigure (cm am : Mask) (ceil : Nibw) (s : State) : Host.Outcome State Fault Refusal :=
  .next (s.respond (configured cm am ceil) { status := .ok } s.bus)

/-- START once the channel is picked (R212). Its response carries `gain = g`, the gain field of the frame it has just sent, as
R212's pseudocode has it, although R25 says that no host operation lets the host read GS: DESIGN CHOICE, R212 followed
(log 21). It tells the host no more of GS than the bus does, where R25 has the host see it (`response_gains`). -/
def startAt (s : State) (c : Chan) : State :=
  s.onBus false (s.bus.startConv s.params c (s.regs.gs c)) fun _ b =>
    s.respond { s.regs with armed := true } { status := .ok, v := s.regs.ready, ch := c, gain := s.regs.gs c } b

/-- START (R212): `none` from NEXT is the empty mask, tested first. -/
def startOp (s : State) : State :=
  if s.regs.cm = 0#8 then s.raise .noChannelSelected s.bus
  else
    match next s.regs.cm none with
    | none => s.raise .noChannelSelected s.bus
    | some c => startAt s c

/-- START (R212). -/
def execStart (s : State) : Host.Outcome State Fault Refusal := .next (startOp s)

/-- POLL step 4, the gain registers after ADJUST on the stored code of the echoed channel (R162, R213). -/
def adjustedGsw (r : Regs) (ch : Chan) (raw : Raw) : Nibw :=
  if maskBit r.am ch then nibWrite r.gsw ch (adjust r ch (r.gs ch) raw).1 else r.gsw

/-- POLL step 7, the registers committed once START_CONV is done (R213, R216, R217). -/
def pollCommit (r : Regs) (st : StatusBits) (raw : Raw) : Regs :=
  if validOf (adjust r st.ch (r.gs st.ch) raw).2 then
    { r with gsw := adjustedGsw r st.ch raw, armed := true, ready := true
             cache := { ch := st.ch, vq := convert raw st.gain, gain := st.gain } }
  else { r with gsw := adjustedGsw r st.ch raw, armed := true }

/-- POLL step 7, the response (R213): CHANNEL_READY, or BUSY where the sample overflowed. -/
def pollResponse (r : Regs) (st : StatusBits) (raw : Raw) : Response :=
  if validOf (adjust r st.ch (r.gs st.ch) raw).2 then { status := .channelReady, v := true, ch := st.ch }
  else { status := .busy }

/-- POLL steps 4 to 7 (R213). NEXT gives none only for an empty mask, which step 0 has excluded. -/
def pollFinish (s : State) (st : StatusBits) (raw : Raw) (b : Bus) : State :=
  match next s.regs.cm (some st.ch) with
  | none => s.raise .noChannelSelected b
  | some nxt =>
    s.onBus true (b.startConv s.params nxt (nibRead (adjustedGsw s.regs st.ch raw) nxt)) fun _ b =>
      s.respond (pollCommit s.regs st raw) (pollResponse s.regs st raw) b

/-- POLL from step 2 on (R213): status check, BUSY, result fetch, completion. -/
def pollBus (s : State) : State :=
  s.onBus false (s.bus.statusRead s.params) fun st b =>
    if st.devReady then s.onBus true (b.resultRead s.params) fun raw b => pollFinish s st raw b
    else s.respond s.regs { status := .busy } b

/-- POLL (R213): the empty mask first (R214), then back-pressure (R215). -/
def pollOp (s : State) : State :=
  if s.regs.cm = 0#8 then s.raise .noChannelSelected s.bus
  else if s.regs.ready then s.respond s.regs { status := .channelReady, v := true, ch := s.regs.cache.ch } s.bus
  else pollBus s

/-- POLL (R213). -/
def execPoll (s : State) : Host.Outcome State Fault Refusal := .next (pollOp s)

end Sys2Proof.Machine
end

