-- ==== Sys2Proof/Machine/Dispatch.lean ====
section
/-!
DEFINITION. From an operation to its meaning, one arm per constructor.
-/

namespace Sys2Proof.Machine

def exec (i : Instr) (s : State) : Host.Outcome State Fault Refusal :=
  match i with
  | .configure cm am ceil => Sys2Proof.Machine.execConfigure cm am ceil s
  | .start => Sys2Proof.Machine.execStart s
  | .poll => Sys2Proof.Machine.execPoll s
  | .consume => Sys2Proof.Machine.execConsume s
  | .peek => Sys2Proof.Machine.execPeek s
  | .gainscale => Sys2Proof.Machine.execGainscale s
  | .precision => Sys2Proof.Machine.execPrecision s
  | .reservedOp7 => Sys2Proof.Machine.execReservedOp7 s
  | .statusRead => Sys2Proof.Machine.execStatusRead s
  | .resultRead => Sys2Proof.Machine.execResultRead s
  | .startConv c g => Sys2Proof.Machine.execStartConv c g s

end Sys2Proof.Machine
end

