-- ==== Sys2Proof/Machine/Fetch.lean ====
section
/-!
DEFINITION. What the command port offers next (spec/30 R96, spec/70 R291): the analogue of fetching an instruction.
-/

namespace Sys2Proof.Machine

/-- What a step has to do. -/
inductive Fetched where
  /-- Run this operation in this state. -/
  | run (i : Instr) (s : State)
  /-- No operation is accepted; this is the state after the step. -/
  | settle (s : State)
  /-- The word is no operation. -/
  | reject (r : Refusal)
  deriving DecidableEq, Repr

/-- A step in which no operation ends: every register holds (R277), and the response of the operation before is over,
since it is presented for one cycle only (R96; log 8). -/
def State.quiet (s : State) : State := { s with rsp := none, busResult := none }

/-- `rst` (R96, R291): every register takes its reset value, a stuck operation is abandoned without a response, and no
primitive is issued; the environment and the parameters are not the core's to reset (log 13). -/
def State.hardReset (s : State) : State :=
  { s with regs := Regs.zero, rsp := none, inFlight := none, busResult := none }

/-- Take the next thing the host presents. A word is accepted only while `cmd_ready` is 1 (R96, R295). -/
def fetch (s : State) : Fetched :=
  match s.inputs with
  | [] => .settle s.quiet
  | .rst :: rest => .settle { s with inputs := rest }.hardReset
  | .word e :: rest =>
    if s.cmdReady then
      match decode s.params e with
      | .ok i => .run i { s with inputs := rest }
      | .error .noSuchSelector => .reject .noSuchFrame
    else .settle { s with inputs := rest }.quiet

end Sys2Proof.Machine
end

