-- ==== Sys2Proof/Machine/Step.lean ====
section
/-!
DEFINITION. One step of the machine: one host operation to its end (spec/00 R6 b, spec/92 D1), or one step without one.
-/

namespace Sys2Proof.Machine

/-- One step. -/
def step (s : State) : Host.Outcome State Fault Refusal :=
  match fetch s with
  | .run i s' => exec i s'
  | .settle s' => .next s'
  | .reject r => .refused r

/-- `s` with the operation of a word of the operation table presented next and the command port free to take it. -/
def State.withFetchWord (s : State) (nbits w : Nat) : State :=
  match tableWord nbits w with
  | some e => { s with inputs := .word e :: s.inputs, inFlight := none }
  | none => s

end Sys2Proof.Machine
end

