-- ==== Sys2Proof/Safety.lean ====
section
/-!
DEFINITION. What the statements speak of: the invariants the spec gives (R26, R30, R214, R223), and the shapes of bus
activity (R71, R196). No meaning of an instruction uses anything here.
-/

namespace Sys2Proof

open Machine

/-- I1 to I5 of R26 for one channel. -/
abbrev GainInvAt (r : Regs) (n : Chan) : Prop :=
  nibTop r.gsw n = false ∧ nibTop r.gcw n = false ∧ r.gc n ≤ 5#3 ∧ r.gs n ≤ r.gc n ∧
    (maskBit r.am n = false → r.gs n = r.gc n) ∧ r.gs n ≤ 5#3

/-- The invariants of the registers: I1 to I5 for every channel (R26), I6 (R30), and that nothing waits to be consumed
under an empty mask (R214). -/
abbrev RegsInv (r : Regs) : Prop :=
  (∀ n : Chan, GainInvAt r n) ∧ (r.ready = true → r.armed = true) ∧ (r.cm = 0#8 → r.ready = false)

/-- The channel in the device's config register (R40 a, R101). -/
def echoChan (d : Device) : Chan := d.config.extractLsb' 12 3

/-- The gain code in the device's config register (R40 a, R101). -/
def echoGain (d : Device) : Code := d.config.extractLsb' 9 3

/-- What R223 (a) and (b) rest on: once a conversion has been started, the device's config register names an enabled
channel, at the gain code stored for it. -/
abbrev EchoInv (s : State) : Prop :=
  s.regs.armed = true → maskBit s.regs.cm (echoChan s.bus.dev) = true ∧ s.regs.gs (echoChan s.bus.dev) = echoGain s.bus.dev

/-- The device never takes a transaction whose end the core was not told of: the premise of R223 that what the device
holds is the last successful START_CONV. -/
def BusReply.notHalf : BusReply → Bool
  | .ok _ => true
  | .err acted => !acted
  | .never acted => !acted
  | .device _ => true

/-- The device answers for itself (spec/93 G7). -/
def BusReply.isDevice : BusReply → Bool
  | .ok _ => false
  | .err _ => false
  | .never _ => false
  | .device _ => true

/-- The 13 primitives of a POLL that completes (R196, R213): STATUS_READ, RESULT_READ, START_CONV(c, g). -/
def pollPrims (P : Params) (c : Chan) (g : Code) : List BusPrim :=
  readPrims P P.ptrConfig ++ readPrims P P.ptrResult ++ startPrims P c g

/-- Which bus operation and which failure the j-th primitive of `pollPrims` stands for (R261): the eight pairs that can
occur; a WRITE has none. -/
def pollFailure : Nat → Option (Txn × FailKind)
  | 0 => some (.statusRead, .onBegin)
  | 2 => some (.statusRead, .onEnd)
  | 3 => some (.statusRead, .onCount)
  | 4 => some (.resultRead, .onBegin)
  | 6 => some (.resultRead, .onEnd)
  | 7 => some (.resultRead, .onCount)
  | 8 => some (.startConv, .onBegin)
  | 12 => some (.startConv, .onEnd)
  | _ => none

/-- The code the search reaches in the increase band, as the table of R158 lists it. -/
def increaseTable (cur a : Nat) : Nat :=
  match cur with
  | 0 => if 512 ≤ a then 1 else if 256 ≤ a then 2 else if 128 ≤ a then 3 else if 64 ≤ a then 4 else 5
  | 1 => if 768 ≤ a then 1 else if 384 ≤ a then 2 else if 192 ≤ a then 3 else if 96 ≤ a then 4 else 5
  | 2 => if 768 ≤ a then 2 else if 384 ≤ a then 3 else if 192 ≤ a then 4 else 5
  | 3 => if 768 ≤ a then 3 else if 384 ≤ a then 4 else 5
  | 4 => if 768 ≤ a then 4 else 5
  | c => c

/-- c(k) of R183: c(0) = NEXT(none), c(k+1) = NEXT(some c(k)). -/
def visit (cm : Mask) : Nat → Option Chan
  | 0 => next cm none
  | k + 1 =>
    match visit cm k with
    | some c => next cm (some c)
    | none => none

/-- The enabled channels in ascending order (R183: e(0) < e(1) < ...). -/
def enabledChans (cm : Mask) : List Chan := allChans.filter (maskBit cm)

/-- The status field of a response word (R93). -/
def rspStatus (w : Rsp) : BitVec 3 := w.extractLsb' 29 3

/-- A response word that reports an exception (R260): COMM_ERROR, NO_CHANNEL_SELECTED or ILLEGAL_OP. -/
def isExceptionWord (w : Rsp) : Prop := rspStatus w = 3 ∨ rspStatus w = 4 ∨ rspStatus w = 7

/-- The bus operation the j-th primitive of `pollPrims` belongs to. -/
def pollTxn (j : Nat) : Txn := if j < 4 then .statusRead else if j < 8 then .resultRead else .startConv

/-- How many of the environment's replies lie between two states of the bus. -/
def repliesUsed (b b' : Bus) : Nat := (b.script.length - b'.script.length) + (b'.drawn - b.drawn)

end Sys2Proof
end

