-- ==== Sys2Proof/Certificates/Slice0/Obligations.lean ====
section
/-!
DEFINITION. The statements for the provers, from the numbered rules of spec/. In the statements about bus activity the
environment's settled replies are `ds.map .ok`: one ok answer per primitive, with arbitrary data; the data of the READs
are the fourth and the eighth.
-/

open Sys2Proof Sys2Proof.Machine

/-! ### Encodings -/

/-- Decode after encode is the identity for every operation and every operand value, under parameters that name two
registers (R91, R92, R101, R106; the decoding of a FRAME request is the model's choice, log 11). -/
def Obligations.DecodeEncodeRoundTrip : Prop :=
  ∀ (P : Params) (i : Instr), i.wellFormed P = true → decode P (encode P i) = .ok i

/-- The CMD words of spec/95 L2-F decode to their operations; and a FRAME word of each bus operation, at the default
parameters, taken as a request to run it, which is the model's choice of how a word requests a bus operation (log 11; R106
describes the bytes on the bus only). -/
def Obligations.SpecWordsDecode : Prop :=
  decodeCmd 0x0FFFF55555555#51 = .configure 0xFF 0xFF 0x55555555 ∧
  decodeCmd 0x00F0500007352#51 = .configure 0x0F 0x05 0x00007352 ∧
  decodeCmd 0x1000000000000#51 = .start ∧ decodeCmd 0x2000000000000#51 = .poll ∧
  decodeCmd 0x3000000000000#51 = .consume ∧ decodeCmd 0x4000000000000#51 = .peek ∧
  decodeCmd 0x5000000000000#51 = .gainscale ∧ decodeCmd 0x6000000000000#51 = .precision ∧
  decodeCmd 0x7000000000000#51 = .reservedOp7 ∧ decodeCmd 0x2ABCDEF012345#51 = .poll ∧
  decodeTableWord 24 0x010000 = some .statusRead ∧ decodeTableWord 24 0x000000 = some .resultRead ∧
  decodeTableWord 24 0x01C983 = some (.startConv 4 4)

/-- R91, R92: the operation code is bits [50:48]; CONFIGURE's operands are bits [47:40], [39:32] and [31:0]; for every
other operation bits [47:0] are ignored, and the encoder writes them as zero. -/
def Obligations.CommandWordFields : Prop :=
  (∀ (cm am : Mask) (ceil : Nibw), decodeCmd (0#3 ++ cm ++ am ++ ceil) = .configure cm am ceil) ∧
  (∀ x : BitVec 48, decodeCmd (1#3 ++ x) = .start ∧ decodeCmd (2#3 ++ x) = .poll ∧ decodeCmd (3#3 ++ x) = .consume ∧
    decodeCmd (4#3 ++ x) = .peek ∧ decodeCmd (5#3 ++ x) = .gainscale ∧ decodeCmd (6#3 ++ x) = .precision ∧
    decodeCmd (7#3 ++ x) = .reservedOp7) ∧
  (∀ (P : Params) (cm am : Mask) (ceil : Nibw),
    encode P (.configure cm am ceil) = .cmd (0#3 ++ cm ++ am ++ ceil)) ∧
  (∀ P : Params, encode P .start = .cmd (1#3 ++ 0#48) ∧ encode P .poll = .cmd (2#3 ++ 0#48) ∧
    encode P .consume = .cmd (3#3 ++ 0#48) ∧ encode P .peek = .cmd (4#3 ++ 0#48) ∧
    encode P .gainscale = .cmd (5#3 ++ 0#48) ∧ encode P .precision = .cmd (6#3 ++ 0#48) ∧
    encode P .reservedOp7 = .cmd (7#3 ++ 0#48))

/-- R105: for every channel c, gain code g and bit x, the byte {1, c, g, x} decodes to channel c and gain g; START_CONV
writes such a byte (R101). -/
def Obligations.ConfigByteRoundTrip : Prop :=
  (∀ (c : Chan) (g : Code) (x : BitVec 1) (b1 : Byte),
    statusOf (1#1 ++ c ++ g ++ x ++ b1) = { devReady := true, ch := c, gain := g }) ∧
  (∀ (P : Params) (c : Chan) (g : Code) (b1 : Byte),
    statusOf (configMsb P c g ++ b1) = { devReady := true, ch := c, gain := g })

/-- The layout of the response word (R93) and the status codes (R94). -/
def Obligations.ResponseWordLayout : Prop :=
  (∀ r : Response,
    r.word.extractLsb' 29 3 = r.status.code ∧ r.word.getLsbD 28 = r.v ∧ r.word.extractLsb' 25 3 = r.ch ∧
    r.word.extractLsb' 22 3 = r.gain ∧ r.word.extractLsb' 18 4 = r.info ∧ r.word.getLsbD 17 = false ∧
    r.word.extractLsb' 0 17 = r.data) ∧
  Status.ok.code = 0 ∧ Status.busy.code = 1 ∧ Status.channelReady.code = 2 ∧ Status.commError.code = 3 ∧
  Status.noChannelSelected.code = 4 ∧ Status.illegalOp.code = 7

/-- R95: info[1:0] of a CommError is the bus operation that failed, 1 to 3; info[3:2] is what failed, 1 for `Bus.begin`, 2
for `Bus.end`, 3 for `Bus.read(2)`; neither is ever 0. -/
def Obligations.CommErrorInfoCodes : Prop :=
  ∀ (t : Txn) (k : FailKind) (ready : Bool),
    ((Exc.commError t k).response ready).info.extractLsb' 0 2 = t.code ∧
    ((Exc.commError t k).response ready).info.extractLsb' 2 2 = k.code ∧ t.code ≠ 0 ∧ k.code ≠ 0 ∧
    Txn.statusRead.code = 1 ∧ Txn.resultRead.code = 2 ∧ Txn.startConv.code = 3 ∧
    FailKind.onBegin.code = 1 ∧ FailKind.onEnd.code = 2 ∧ FailKind.onCount.code = 3 ∧
    (∀ a, (BusPrim.beginTxn a).failKind = some .onBegin) ∧ BusPrim.endTxn.failKind = some .onEnd ∧
    (BusPrim.readBytes 2).failKind = some .onCount ∧ (∀ b, (BusPrim.writeByte b).failKind = none)

/-- R104: the raw sample is the 16-bit signed value of the result word shifted right arithmetically by 4; it lies in
-2048 to 2047 and does not depend on the low four bits; with the rule's examples. -/
def Obligations.RawSampleIsArithmeticShift : Prop :=
  (∀ w : Reg16, (rawOf w).toInt = w.toInt >>> (4 : Nat) ∧ -2048 ≤ (rawOf w).toInt ∧ (rawOf w).toInt ≤ 2047) ∧
  (∀ (hi : BitVec 12) (x y : BitVec 4), rawOf (hi ++ x) = rawOf (hi ++ y)) ∧
  (rawOf 0x0640#16).toInt = 100 ∧ (rawOf 0xF9C0#16).toInt = -100 ∧ (rawOf 0x7FF0#16).toInt = 2047 ∧
  (rawOf 0x8000#16).toInt = -2048 ∧ (rawOf 0x7FDF#16).toInt = 2045

/-! ### Gain table, converter, nibbles, gain controller, scheduler -/

/-- R130: the gain table, with M in units of 125 microvolts per count; codes 5, 6 and 7 map to the same entry. -/
def Obligations.GainTableEntries : Prop :=
  ((lookup 0).microvolts = 3000 ∧ (lookup 0).m = 24 ∧ (lookup 0).digits = 3) ∧
  ((lookup 1).microvolts = 2000 ∧ (lookup 1).m = 16 ∧ (lookup 1).digits = 3) ∧
  ((lookup 2).microvolts = 1000 ∧ (lookup 2).m = 8 ∧ (lookup 2).digits = 3) ∧
  ((lookup 3).microvolts = 500 ∧ (lookup 3).m = 4 ∧ (lookup 3).digits = 4) ∧
  ((lookup 4).microvolts = 250 ∧ (lookup 4).m = 2 ∧ (lookup 4).digits = 5) ∧
  ((lookup 5).microvolts = 125 ∧ (lookup 5).m = 1 ∧ (lookup 5).digits = 6) ∧
  lookup 6 = lookup 5 ∧ lookup 7 = lookup 5

/-- R132: the voltage is the exact signed product raw × M. Beside it what the spec derives in R131 and R133: in microvolts it
is raw × scale; it lies within 49152 of zero and has the sign of raw. -/
def Obligations.ConvertIsExactProduct : Prop :=
  ∀ (raw : Raw) (g : Code),
    (convert raw g).toInt = raw.toInt * (lookup g).m.toNat ∧
    (convert raw g).toInt * 125 = raw.toInt * (lookup g).microvolts ∧
    (convert raw g).toInt.natAbs ≤ 49152 ∧ (convert raw g).toInt.sign = raw.toInt.sign

/-- The nibble operations (R150 to R152): NIB_READ gives bits 4n+2..4n; NIB_CLEAR zeroes bits 4n+3..4n and no other;
NIB_WRITE writes {0, c} there and no other bit, so that it reads back and leaves every other channel alone, and writing
the value already there leaves a word whose bit 4n+3 is 0 unchanged. -/
def Obligations.NibbleOperationLaws : Prop :=
  ∀ (w : Nibw) (n m : Chan) (c : Code),
    (∀ k, k < 3 → (nibRead w n).getLsbD k = w.getLsbD (4 * n.toNat + k)) ∧
    (∀ k, (nibClear w n).getLsbD k = (w.getLsbD k && !(decide (4 * n.toNat ≤ k) && decide (k < 4 * n.toNat + 4)))) ∧
    nibRead (nibWrite w n c) n = c ∧ nibTop (nibWrite w n c) n = false ∧
    (m ≠ n → nibRead (nibWrite w n c) m = nibRead w m ∧ nibTop (nibWrite w n c) m = nibTop w m) ∧
    (nibTop w n = false → nibWrite w n (nibRead w n) = w)

/-- R160: for an auto channel, at any current code and any ceiling: one step down, not below 0 and without overflow, for a
magnitude 1946 to 2044; code 0 and overflow for 2045 or more; no overflow at 2044 or below. -/
def Obligations.DecreaseAndOverflowBands : Prop :=
  ∀ (r : Regs) (n : Chan) (cur : Code) (raw : Raw), maskBit r.am n = true →
    (1946 ≤ raw.toInt.natAbs → raw.toInt.natAbs ≤ 2044 →
      (adjust r n cur raw).1.toNat = cur.toNat - 1 ∧ (adjust r n cur raw).2 = false) ∧
    (2045 ≤ raw.toInt.natAbs → adjust r n cur raw = (0#3, true)) ∧
    (raw.toInt.natAbs ≤ 2044 → (adjust r n cur raw).2 = false)

/-- The spec's derived table R158, with the clamp of R155: in the increase band an auto channel's new code is the table's code clamped to the ceiling. -/
def Obligations.IncreaseBandTable : Prop :=
  ∀ (r : Regs) (n : Chan) (cur : Code) (raw : Raw), maskBit r.am n = true → raw.toInt.natAbs < 1024 →
    (search raw.toInt.natAbs cur).toNat = increaseTable cur.toNat raw.toInt.natAbs ∧
    (adjust r n cur raw).1.toNat = min (increaseTable cur.toNat raw.toInt.natAbs) (r.gc n).toNat ∧
    (adjust r n cur raw).2 = false

/-- The seven properties the spec derives from R155 in R161: hold band the identity; never above the ceiling from below it;
overflow exactly on an auto channel at 2045 or more; never above 5; at most five steps up and one down; a fixed channel
untouched; only the magnitude counts. -/
def Obligations.AdjustProperties : Prop :=
  ∀ (r : Regs) (n : Chan) (cur : Code) (raw : Raw),
    (1024 ≤ raw.toInt.natAbs → raw.toInt.natAbs ≤ 1945 → adjust r n cur raw = (cur, false)) ∧
    (maskBit r.am n = true → cur ≤ r.gc n → (adjust r n cur raw).1 ≤ r.gc n) ∧
    ((adjust r n cur raw).2 = true ↔ maskBit r.am n = true ∧ 2045 ≤ raw.toInt.natAbs) ∧
    ((adjust r n cur raw).1.toNat ≤ max cur.toNat 5 ∧ (cur ≤ 5#3 → (adjust r n cur raw).1 ≤ 5#3)) ∧
    ((adjust r n cur raw).1.toNat ≤ cur.toNat + 5 ∧
      (cur ≤ r.gc n → (adjust r n cur raw).2 = false → cur.toNat ≤ (adjust r n cur raw).1.toNat + 1)) ∧
    (maskBit r.am n = false → adjust r n cur raw = (cur, false)) ∧
    (∀ raw' : Raw, raw'.toInt.natAbs = raw.toInt.natAbs → adjust r n cur raw' = adjust r n cur raw)

/-- The six corner cases (a) to (f) of NEXT that the spec derives from R180 in R181. -/
def Obligations.NextCornerCases : Prop :=
  (∀ (c : Chan) (cm : Mask), (∀ n, maskBit cm n = true ↔ n = c) → next cm (some c) = some c) ∧
  (∀ cm : Mask, next cm none = next cm (some 7#3)) ∧
  (∀ (cm : Mask) (l : Chan), cm ≠ 0#8 → ∃ c, next cm (some l) = some c) ∧
  (∀ l : Chan, next 0xFF#8 (some l) = some (l + 1#3)) ∧
  (∀ last : Option Chan, next 0#8 last = none) ∧
  (∀ (cm : Mask) (last : Option Chan) (c : Chan), next cm last = some c → maskBit cm c = true)

/-- The cyclic order the spec derives in R183: the k-th channel picked is the (k mod m)-th of the m enabled channels in ascending order. -/
def Obligations.NextCyclesEnabledChannels : Prop :=
  ∀ (cm : Mask) (k : Nat), cm ≠ 0#8 →
    visit cm k = (enabledChans cm)[k % (enabledChans cm).length]? ∧ (visit cm k).isSome = true

/-! ### Reset -/

/-- R42: after reset every state element is zero and fsm is Idle; POLL and START then answer NO_CHANNEL_SELECTED without
touching the bus. -/
def Obligations.ResetLeavesAllZero : Prop :=
  State.reset.regs.cm = 0 ∧ State.reset.regs.am = 0 ∧ State.reset.regs.gcw = 0 ∧ State.reset.regs.gsw = 0 ∧
  State.reset.regs.ready = false ∧ State.reset.regs.armed = false ∧ State.reset.regs.cache.ch = 0 ∧
  State.reset.regs.cache.vq = 0 ∧ State.reset.regs.cache.gain = 0 ∧ State.reset.fsmOut = 0b00#2 ∧
  (∃ t, exec .poll State.reset = .next t ∧ t.rsp = some 0x80000000#32 ∧ t.bus = State.reset.bus) ∧
  (∃ t, exec .start State.reset = .next t ∧ t.rsp = some 0x80000000#32 ∧ t.bus = State.reset.bus)

/-- R291: `rst` gives every register its reset value, abandons an operation in flight without a response, issues no
primitive, and frees the command port; the registers are those of CONFIGURE 0, 0, 0 from any state. That `rst` is taken
like a command, and leaves the environment alone, is the model's choice (log 13). -/
def Obligations.ResetInputActs : Prop :=
  (∀ (s : State) (rest : List PortInput), s.inputs = .rst :: rest →
    ∃ t, step s = .next t ∧ t.regs = State.reset.regs ∧ t.rspValid = false ∧ t.cmdReady = true ∧
      t.busReqValid = false ∧ t.readyOut = false ∧ t.fsmOut = 0b00#2 ∧ t.bus = s.bus ∧ t.inputs = rest) ∧
  (∀ s : State, ∃ t, exec (.configure 0#8 0#8 0#32) s = .next t ∧ t.regs = State.reset.regs)

/-- What the accessors answer straight after reset (derived by the spec in R292). -/
def Obligations.AnswersStraightAfterReset : Prop :=
  (∃ t, exec .consume State.reset = .next t ∧ t.rsp = some 0x00000000#32) ∧
  (∃ t, exec .peek State.reset = .next t ∧ t.rsp = some 0x00000000#32) ∧
  (∃ t, exec .gainscale State.reset = .next t ∧ t.rsp = some 0x00000018#32) ∧
  (∃ t, exec .precision State.reset = .next t ∧ t.rsp = some 0x00000003#32)

/-! ### Host operations -/

/-- R211: CONFIGURE, in every state and for every operand value: the masks as they are, every ceiling normalised (bit 4n+3
ignored), every gain code 0 or the normalised ceiling, flags and cache cleared, OK with every other field zero, no bus
activity (so the device goes on with what it does), nothing else changed. -/
def Obligations.ConfigureResult : Prop :=
  ∀ (cm am : Mask) (ceil : Nibw) (s : State),
    ∃ regs : Regs,
      exec (.configure cm am ceil) s = .next { s with regs := regs, rsp := some 0x00000000#32, busResult := none } ∧
      regs.cm = cm ∧ regs.am = am ∧ regs.ready = false ∧ regs.armed = false ∧
      regs.cache = { ch := 0#3, vq := 0#17, gain := 0#3 } ∧
      ∀ n : Chan,
        (regs.gc n).toNat = min (ceil.extractLsb' (4 * n.toNat) 3).toNat 5 ∧
        regs.gs n = (if am.getLsbD n.toNat then 0#3 else regs.gc n) ∧
        regs.gcw.getLsbD (4 * n.toNat + 3) = false ∧ regs.gsw.getLsbD (4 * n.toNat + 3) = false

/-- R214, R262: POLL and START on an empty mask answer NO_CHANNEL_SELECTED, whatever `ready` is, with no bus activity and no
change of any register; v is `ready`, as R93 has it (log 12). -/
def Obligations.EmptyMaskAnswersNoChannel : Prop :=
  ∀ s : State, s.regs.cm = 0#8 →
    exec .poll s = .next
      { s with rsp := some (Response.word { status := .noChannelSelected, v := s.regs.ready }), busResult := none } ∧
    exec .start s = .next
      { s with rsp := some (Response.word { status := .noChannelSelected, v := s.regs.ready }), busResult := none }

/-- R212: START, when every primitive is answered ok: the lowest enabled channel is started at its stored gain code, `armed`
is set, and nothing else of the core changes; the device then holds that channel and gain and is converting, its result
register unchanged so far. The gain field of the response is the model's choice of R212 over R25 (log 21), and what the
device holds is the model's device (log 7). -/
def Obligations.StartCompletes : Prop :=
  ∀ (s : State) (c : Chan) (ds : List Reg16) (rest : List BusReply),
    s.regs.cm ≠ 0#8 → next s.regs.cm none = some c → s.bus.script = ds.map .ok ++ rest → ds.length = 5 →
    (∀ n : Chan, n < c → maskBit s.regs.cm n = false) ∧ maskBit s.regs.cm c = true ∧
    ∃ d : Device,
      exec .start s = .next
        { s with
          regs := { s.regs with armed := true }
          rsp := some (Response.word { status := .ok, v := s.regs.ready, ch := c, gain := s.regs.gs c })
          busResult := none
          bus := { script := rest, drawn := s.bus.drawn
                   trace := s.bus.trace ++ startPrims s.params c (s.regs.gs c), dev := d } } ∧
      echoChan d = c ∧ echoGain d = s.regs.gs c ∧ d.done = false ∧ d.result = s.bus.dev.result

/-- R212, R194: START whose `Bus.begin` or `Bus.end` is answered err: COMM_ERROR with txn 3, no register changed, no
primitive issued after the failing one; v is `ready`, which stays as it was (R93; log 12). The device keeps its result, and
its config register and ready bit too unless it took the bytes behind the error (log 6, log 7). -/
def Obligations.StartFailsOnBusError : Prop :=
  ∀ (s : State) (c : Chan) (ds : List Reg16) (acted : Bool) (rest : List BusReply) (k : FailKind),
    s.regs.cm ≠ 0#8 → next s.regs.cm none = some c → s.bus.script = ds.map .ok ++ .err acted :: rest →
    (ds.length = 0 ∧ k = .onBegin ∨ ds.length = 4 ∧ k = .onEnd) →
    ∃ d : Device,
      exec .start s = .next
        { s with
          rsp := some (Response.word { status := .commError, v := s.regs.ready, info := k.code ++ 3#2 })
          busResult := none
          bus := { script := rest, drawn := s.bus.drawn
                   trace := s.bus.trace ++ (startPrims s.params c (s.regs.gs c)).take (ds.length + 1), dev := d } } ∧
      d.result = s.bus.dev.result ∧
      (acted = false → d.config = s.bus.dev.config ∧ d.done = s.bus.dev.done)

/-- R215: while `ready` is 1 a POLL answers CHANNEL_READY with the cached channel, issues no primitive and changes no
state. -/
def Obligations.PollBackPressure : Prop :=
  ∀ s : State, s.regs.cm ≠ 0#8 → s.regs.ready = true →
    exec .poll s = .next
      { s with rsp := some (Response.word { status := .channelReady, v := true, ch := s.regs.cache.ch }), busResult := none }

/-- R213 step 2, R216: a POLL that sees the ready bit 0 answers BUSY after one bus operation, with no change of any
register; the read has no side effect on the device's registers (R69 b): it leaves only the selector it has sent
(log 7). -/
def Obligations.PollBusyWhileConverting : Prop :=
  ∀ (s : State) (ds : List Reg16) (rest : List BusReply),
    s.regs.cm ≠ 0#8 → s.regs.ready = false → s.bus.script = ds.map .ok ++ rest → ds.length = 4 →
    (statusOf (ds.getD 3 0#16)).devReady = false →
    exec .poll s = .next
      { s with
        rsp := some 0x20000000#32, busResult := none
        bus := { script := rest, drawn := s.bus.drawn
                 trace := s.bus.trace ++ readPrims s.params s.params.ptrConfig
                 dev := { s.bus.dev with selector := s.params.ptrConfig, inbox := [] } } }

/-- R213, R216: a POLL whose sample is valid (fixed channel, or magnitude below 2045) commits in one update: the new gain
code of the echoed channel if it is an auto channel, the cache with the voltage at the echoed gain, `ready` and `armed`;
it starts the next channel at its updated gain code and answers CHANNEL_READY. The device then holds that channel and gain
and is converting, its result register unchanged so far: the model's device (log 7). -/
def Obligations.PollSurfacesValidSample : Prop :=
  ∀ (s : State) (ds : List Reg16) (rest : List BusReply) (st : StatusBits) (raw : Raw) (nxt : Chan) (gsw' : Nibw),
    s.regs.cm ≠ 0#8 → s.regs.ready = false → s.bus.script = ds.map .ok ++ rest → ds.length = 13 →
    st = statusOf (ds.getD 3 0#16) → raw = rawOf (ds.getD 7 0#16) → st.devReady = true →
    next s.regs.cm (some st.ch) = some nxt →
    gsw' = (if maskBit s.regs.am st.ch
      then nibWrite s.regs.gsw st.ch (adjust s.regs st.ch (s.regs.gs st.ch) raw).1 else s.regs.gsw) →
    (maskBit s.regs.am st.ch = false ∨ raw.toInt.natAbs < 2045) →
    ∃ d : Device,
      exec .poll s = .next
        { s with
          regs := { s.regs with gsw := gsw', ready := true, armed := true
                                cache := { ch := st.ch, vq := convert raw st.gain, gain := st.gain } }
          rsp := some (Response.word { status := .channelReady, v := true, ch := st.ch })
          busResult := none
          bus := { script := rest, drawn := s.bus.drawn
                   trace := s.bus.trace ++ pollPrims s.params nxt (nibRead gsw' nxt), dev := d } } ∧
      echoChan d = nxt ∧ echoGain d = nibRead gsw' nxt ∧ d.done = false ∧ d.result = s.bus.dev.result

/-- R217: a POLL whose sample overflows (auto channel, magnitude 2045 or more) resets the channel's gain code to 0, leaves
cache and `ready` alone, starts the next channel at its updated gain code, sets `armed` and answers BUSY; the device's result
register keeps the sample (the device as the model has it: log 7). -/
def Obligations.PollDiscardsOverflow : Prop :=
  ∀ (s : State) (ds : List Reg16) (rest : List BusReply) (st : StatusBits) (raw : Raw) (nxt : Chan) (gsw' : Nibw),
    s.regs.cm ≠ 0#8 → s.regs.ready = false → s.bus.script = ds.map .ok ++ rest → ds.length = 13 →
    st = statusOf (ds.getD 3 0#16) → raw = rawOf (ds.getD 7 0#16) → st.devReady = true →
    next s.regs.cm (some st.ch) = some nxt → gsw' = nibWrite s.regs.gsw st.ch 0#3 →
    maskBit s.regs.am st.ch = true → 2045 ≤ raw.toInt.natAbs →
    ∃ d : Device,
      exec .poll s = .next
        { s with
          regs := { s.regs with gsw := gsw', armed := true }
          rsp := some 0x20000000#32
          busResult := none
          bus := { script := rest, drawn := s.bus.drawn
                   trace := s.bus.trace ++ pollPrims s.params nxt (nibRead gsw' nxt), dev := d } } ∧
      echoChan d = nxt ∧ echoGain d = nibRead gsw' nxt ∧ d.done = false ∧ d.result = s.bus.dev.result

/-- R218, R261, R268: the first err among the primitives of a POLL decides it: COMM_ERROR with the txn and kind of that
primitive, no register changed (whatever was fetched before), no primitive issued after it. -/
def Obligations.PollFirstErrorDecides : Prop :=
  ∀ (s : State) (ds : List Reg16) (acted : Bool) (rest : List BusReply) (st : StatusBits) (raw : Raw) (nxt : Chan)
    (gsw' : Nibw) (t : Txn) (k : FailKind),
    s.regs.cm ≠ 0#8 → s.regs.ready = false → s.bus.script = ds.map .ok ++ .err acted :: rest →
    pollFailure ds.length = some (t, k) →
    st = statusOf (ds.getD 3 0#16) → raw = rawOf (ds.getD 7 0#16) → (4 ≤ ds.length → st.devReady = true) →
    next s.regs.cm (some st.ch) = some nxt →
    gsw' = (if maskBit s.regs.am st.ch
      then nibWrite s.regs.gsw st.ch (adjust s.regs st.ch (s.regs.gs st.ch) raw).1 else s.regs.gsw) →
    ∃ d : Device,
      exec .poll s = .next
        { s with
          rsp := some (Response.word { status := .commError, info := k.code ++ t.code })
          busResult := none
          bus := { script := rest, drawn := s.bus.drawn
                   trace := s.bus.trace ++ (pollPrims s.params nxt (nibRead gsw' nxt)).take (ds.length + 1), dev := d } }

/-- R241: CONSUME clears `ready` and nothing else; it answers OK with the cache and v = `ready` before. -/
def Obligations.ConsumeResult : Prop :=
  ∀ s : State,
    exec .consume s = .next
      { s with
        regs := { s.regs with ready := false }
        rsp := some (Response.word { status := .ok, v := s.regs.ready, ch := s.regs.cache.ch
                                     gain := s.regs.cache.gain, data := s.regs.cache.vq })
        busResult := none }

/-- R242: PEEK answers as CONSUME does and changes no state. -/
def Obligations.PeekResult : Prop :=
  ∀ s : State,
    exec .peek s = .next
      { s with
        rsp := some (Response.word { status := .ok, v := s.regs.ready, ch := s.regs.cache.ch
                                     gain := s.regs.cache.gain, data := s.regs.cache.vq })
        busResult := none }

/-- R243: GAINSCALE answers M of the cached gain code and changes no state. -/
def Obligations.GainscaleResult : Prop :=
  ∀ s : State,
    exec .gainscale s = .next
      { s with
        rsp := some (Response.word { status := .ok, v := s.regs.ready, ch := s.regs.cache.ch, gain := s.regs.cache.gain
                                     data := BitVec.ofNat 17 (lookup s.regs.cache.gain).m.toNat })
        busResult := none }

/-- R244: PRECISION answers the digits of the cached gain code and changes no state. -/
def Obligations.PrecisionResult : Prop :=
  ∀ s : State,
    exec .precision s = .next
      { s with
        rsp := some (Response.word { status := .ok, v := s.regs.ready, ch := s.regs.cache.ch, gain := s.regs.cache.gain
                                     data := BitVec.ofNat 17 (lookup s.regs.cache.gain).digits.toNat })
        busResult := none }

/-- R263: the reserved operation code answers status 7 with every other field zero, no state change, no bus activity. -/
def Obligations.ReservedCodeAnswersIllegalOp : Prop :=
  ∀ s : State, exec .reservedOp7 s = .next { s with rsp := some 0xE0000000#32, busResult := none }

/-! ### Bus operations -/

/-- R191: STATUS_READ, answered ok: its four primitives, and the ready bit, channel and gain of the first byte. No register
of the core changes, and none of the device's (R69 b): only its selector is the one sent (log 7). That a bus operation is
run by itself is the model's choice (log 10). -/
def Obligations.StatusReadResult : Prop :=
  ∀ (s : State) (x0 x1 x2 : Reg16) (b0 b1 : Byte) (rest : List BusReply),
    s.bus.script = .ok x0 :: .ok x1 :: .ok x2 :: .ok (b0 ++ b1) :: rest →
    exec .statusRead s = .next
      { s with
        rsp := none
        busResult := some (.status { devReady := b0.getLsbD 7, ch := b0.extractLsb' 4 3, gain := b0.extractLsb' 1 3 })
        bus := { script := rest, drawn := s.bus.drawn
                 trace := s.bus.trace ++
                   [.beginTxn s.params.devAddr, .writeByte s.params.ptrConfig, .endTxn, .readBytes 2]
                 dev := { s.bus.dev with selector := s.params.ptrConfig, inbox := [] } } }

/-- R192: RESULT_READ, answered ok: its four primitives, and the sign-extended top 12 bits of the two bytes. No register of
the core changes, and none of the device's (R69 b): only its selector is the one sent (log 7; run by itself: log 10). -/
def Obligations.ResultReadResult : Prop :=
  ∀ (s : State) (x0 x1 x2 : Reg16) (b0 b1 : Byte) (rest : List BusReply),
    s.bus.script = .ok x0 :: .ok x1 :: .ok x2 :: .ok (b0 ++ b1) :: rest →
    exec .resultRead s = .next
      { s with
        rsp := none
        busResult := some (.sample ((b0 ++ b1 : BitVec 16).extractLsb' 4 12))
        bus := { script := rest, drawn := s.bus.drawn
                 trace := s.bus.trace ++
                   [.beginTxn s.params.devAddr, .writeByte s.params.ptrResult, .endTxn, .readBytes 2]
                 dev := { s.bus.dev with selector := s.params.ptrResult, inbox := [] } } }

/-- R193, R101: START_CONV(c, g), answered ok: its five primitives, with the config MSB {1, c, g, CFG_MSB_BIT0}; the device
then holds c and g and converts (R69 a), its result register unchanged so far. No register of the core changes (run by itself: log 10). -/
def Obligations.StartConvResult : Prop :=
  ∀ (s : State) (c : Chan) (g : Code) (ds : List Reg16) (rest : List BusReply),
    s.bus.script = ds.map .ok ++ rest → ds.length = 5 →
    ∃ d : Device,
      exec (.startConv c g) s = .next
        { s with
          rsp := none
          busResult := some .started
          bus := { script := rest, drawn := s.bus.drawn
                   trace := s.bus.trace ++
                     [.beginTxn s.params.devAddr, .writeByte s.params.ptrConfig,
                      .writeByte (1#1 ++ c ++ g ++ s.params.cfgMsbBit0), .writeByte s.params.cfgLsb, .endTxn]
                   dev := d } } ∧
      echoChan d = c ∧ echoGain d = g ∧ d.done = false ∧ d.result = s.bus.dev.result

/-- R190, R193, R194: the failures of a bus operation: the primitive that is answered err is the last one issued, and the
txn and kind are those of the rule; a WRITE answered err is not a failure. -/
def Obligations.BusOperationFailures : Prop :=
  ∀ (P : Params) (b : Bus) (ds : List Reg16) (acted : Bool) (rest : List BusReply) (k : FailKind) (c : Chan) (g : Code),
    b.script = ds.map .ok ++ .err acted :: rest →
    ((ds.length = 0 ∧ k = .onBegin ∨ ds.length = 2 ∧ k = .onEnd ∨ ds.length = 3 ∧ k = .onCount) →
      (∃ b', b.statusRead P = .failed .statusRead k b' ∧
        b'.trace = b.trace ++ (readPrims P P.ptrConfig).take (ds.length + 1) ∧ b'.script = rest) ∧
      (∃ b', b.resultRead P = .failed .resultRead k b' ∧
        b'.trace = b.trace ++ (readPrims P P.ptrResult).take (ds.length + 1) ∧ b'.script = rest)) ∧
    ((ds.length = 0 ∧ k = .onBegin ∨ ds.length = 4 ∧ k = .onEnd) →
      ∃ b', b.startConv P c g = .failed .startConv k b' ∧
        b'.trace = b.trace ++ (startPrims P c g).take (ds.length + 1) ∧ b'.script = rest) ∧
    (∀ (x : Byte) (t : Txn), ds = [] →
      ∃ b', b.call P t (.writeByte x) = .done 0#16 b' ∧ b'.trace = b.trace ++ [.writeByte x] ∧ b'.script = rest)

/-! ### Whole-machine rules -/

/-- R269: an exception leaves the state as it was before the command; only the response and what the bus has seen differ. -/
def Obligations.ExceptionsLeaveStateUnchanged : Prop :=
  ∀ (i : Instr) (s t : State) (w : Rsp), i.isHostOp = true → exec i s = .next t → t.rsp = some w → isExceptionWord w →
    t.regs = s.regs ∧ t.params = s.params ∧ t.inputs = s.inputs ∧ t.inFlight = s.inFlight

/-- R22, R34, R35: CM, AM and GC are written by CONFIGURE only. -/
def Obligations.OnlyConfigureWritesMasksAndCeilings : Prop :=
  ∀ (i : Instr) (s t : State), exec i s = .next t → (∀ cm am ceil, i ≠ .configure cm am ceil) →
    t.regs.cm = s.regs.cm ∧ t.regs.am = s.regs.am ∧ t.regs.gcw = s.regs.gcw

/-- R24: but for CONFIGURE, only a POLL that commits a result writes GS: one register, that of the channel its STATUS_READ
echoed, an auto channel, with ADJUST's new code for the sample its RESULT_READ fetched; then `armed` is set and the response
is CHANNEL_READY or BUSY. -/
def Obligations.GainRegistersWrittenByPollOnly : Prop :=
  ∀ (i : Instr) (s t : State), exec i s = .next t → (∀ cm am ceil, i ≠ .configure cm am ceil) →
    t.regs.gsw = s.regs.gsw ∨
    (i = .poll ∧ t.regs.armed = true ∧
      ∃ (st : StatusBits) (raw : Raw) (b b' : Bus) (w : Rsp),
        s.bus.statusRead s.params = .done st b ∧ st.devReady = true ∧ b.resultRead s.params = .done raw b' ∧
        maskBit s.regs.am st.ch = true ∧ t.rsp = some w ∧ (rspStatus w = 1 ∨ rspStatus w = 2) ∧
        t.regs.gs st.ch = (adjust s.regs st.ch (s.regs.gs st.ch) raw).1 ∧
        ∀ n, n ≠ st.ch → t.regs.gs n = s.regs.gs n)

/-- R28: `ready` is set by a POLL that answers CHANNEL_READY and cleared by CONSUME and CONFIGURE; nothing else moves
it. -/
def Obligations.ReadyFlagWriters : Prop :=
  ∀ (i : Instr) (s t : State), exec i s = .next t →
    (s.regs.ready = false → t.regs.ready = true → i = .poll ∧ ∃ w, t.rsp = some w ∧ rspStatus w = 2) ∧
    (s.regs.ready = true → t.regs.ready = false → i = .consume ∨ ∃ cm am ceil, i = .configure cm am ceil)

/-- R29: `armed` is set by START and POLL alone, with a START_CONV as the last thing on the bus, and cleared by CONFIGURE
alone. -/
def Obligations.ArmedFlagWriters : Prop :=
  ∀ (i : Instr) (s t : State), exec i s = .next t →
    (s.regs.armed = false → t.regs.armed = true →
      (i = .start ∨ i = .poll) ∧ ∃ (c : Chan) (g : Code), startPrims s.params c g <:+ t.bus.trace) ∧
    (s.regs.armed = true → t.regs.armed = false → ∃ cm am ceil, i = .configure cm am ceil)

/-- R38, R245: an unconsumed value is never overwritten except by CONFIGURE, and the cache is written only by CONFIGURE and
by a POLL that sets `ready`. -/
def Obligations.CacheKeptUntilConsumed : Prop :=
  ∀ (i : Instr) (s t : State), exec i s = .next t → (∀ cm am ceil, i ≠ .configure cm am ceil) →
    (s.regs.ready = true → t.regs.cache = s.regs.cache) ∧
    (t.regs.cache ≠ s.regs.cache → i = .poll ∧ s.regs.ready = false ∧ t.regs.ready = true)

/-- R76: CONFIGURE, CONSUME, PEEK, GAINSCALE, PRECISION and the reserved code do nothing on the bus, in any state. -/
def Obligations.AccessorsTouchNoBus : Prop :=
  ∀ (i : Instr) (s t : State), i.isHostOp = true → i ≠ .start → i ≠ .poll → exec i s = .next t → t.bus = s.bus

/-- R71, R196, R222: whatever the environment does, what a POLL puts on the bus is a beginning of STATUS_READ, RESULT_READ,
START_CONV, and what a START puts there is a beginning of one START_CONV. -/
def Obligations.BusActivityIsAPrefix : Prop :=
  ∀ s t : State,
    (exec .poll s = .next t → ∃ (c : Chan) (g : Code) (k : Nat),
      t.bus.trace = s.bus.trace ++ (pollPrims s.params c g).take k) ∧
    (exec .start s = .next t → ∃ (c : Chan) (g : Code) (k : Nat),
      t.bus.trace = s.bus.trace ++ (startPrims s.params c g).take k)

/-- R26, R71, R78, R193: where the register invariant holds, START and POLL start only enabled channels, at a gain code no
higher than the channel's ceiling, hence at most 5; and the trace only grows. -/
def Obligations.StartsOnlyEnabledChannelsUnderCeiling : Prop :=
  ∀ (i : Instr) (s t : State), RegsInv s.regs → i = .start ∨ i = .poll → exec i s = .next t →
    t.bus.trace = s.bus.trace ∨
    ∃ (c : Chan) (g : Code) (k : Nat), maskBit s.regs.cm c = true ∧ g ≤ s.regs.gc c ∧ g ≤ 5#3 ∧
      (t.bus.trace = s.bus.trace ++ (pollPrims s.params c g).take k ∨
       t.bus.trace = s.bus.trace ++ (startPrims s.params c g).take k)

/-- Every primitive issued uses up exactly one reply of the environment. That a WRITE, which R60 gives no answer, uses up one
too is the model's choice (log 15), and so is the split of the replies into the settled ones and the free ones that
`repliesUsed` counts (log 3). -/
def Obligations.OneReplyPerPrimitive : Prop :=
  ∀ (i : Instr) (s t : State), exec i s = .next t →
    t.bus.trace.length = s.bus.trace.length + repliesUsed s.bus t.bus

/-- R62, R74, R278: a host operation ends with a response, or is stuck at an unanswered primitive with no response and no
register changed; it never faults and is never refused. -/
def Obligations.HostOperationsAnswerOrAreStuck : Prop :=
  ∀ (i : Instr) (s : State), i.isHostOp = true → s.inFlight = none →
    ∃ t, exec i s = .next t ∧
      ((t.rsp.isSome = true ∧ t.inFlight = none) ∨ (t.rsp = none ∧ t.inFlight.isSome = true ∧ t.regs = s.regs))

/-- R62, R278 (a), R31: a POLL whose next primitive is never answered waits there: no response, no register changed, the
command port not ready; fsm shows ResultPending once the STATUS_READ has seen the ready bit (log 4). That `bus_req_valid`
stays 1 meanwhile is the model's choice (log 22). -/
def Obligations.UnansweredPrimitiveSticks : Prop :=
  ∀ (s : State) (ds : List Reg16) (acted : Bool) (rest : List BusReply) (st : StatusBits) (raw : Raw) (nxt : Chan)
    (gsw' : Nibw) (p : BusPrim),
    s.regs.cm ≠ 0#8 → s.regs.ready = false → s.bus.script = ds.map .ok ++ .never acted :: rest →
    st = statusOf (ds.getD 3 0#16) → raw = rawOf (ds.getD 7 0#16) → (4 ≤ ds.length → st.devReady = true) →
    next s.regs.cm (some st.ch) = some nxt →
    gsw' = (if maskBit s.regs.am st.ch
      then nibWrite s.regs.gsw st.ch (adjust s.regs st.ch (s.regs.gs st.ch) raw).1 else s.regs.gsw) →
    (pollPrims s.params nxt (nibRead gsw' nxt))[ds.length]? = some p →
    ∃ d : Device, ∃ t : State,
      t = { s with
            rsp := none
            busResult := none
            inFlight := some { txn := pollTxn ds.length, prim := p, resultPending := decide (4 ≤ ds.length) }
            bus := { script := rest, drawn := s.bus.drawn
                     trace := s.bus.trace ++ (pollPrims s.params nxt (nibRead gsw' nxt)).take (ds.length + 1), dev := d } } ∧
      exec .poll s = .next t ∧ t.cmdReady = false ∧ t.busReqValid = true ∧
      (4 ≤ ds.length → t.fsmOut = 0b10#2) ∧ (ds.length < 4 → t.fsmOut = fsmOfFlags s.regs.ready s.regs.armed)

/-- A core stuck as in R278 (a) stays stuck until `rst` and issues nothing, whatever command the host presents. That a command
presented to it is dropped is the model's choice (log 8: R96 says only that it is not accepted), and so is that the missing
answer never comes (log 4, which is unsafe for this claim). -/
def Obligations.StuckUntilReset : Prop :=
  ∀ (s : State) (f : InFlight), s.inFlight = some f → s.inputs.head? ≠ some .rst →
    step s = .next { s with inputs := s.inputs.tail, rsp := none, busResult := none }

/-- R31: between operations fsm is a function of the flags, and never 0b10. For ready = 1 and armed = 0, which no run reaches
(R30) and R31 gives no code, that rests on the model's choice of 0b11 after spec/90_conflicts.md C4 (log 20). -/
def Obligations.FsmNamesTheFlags : Prop :=
  ∀ s : State, s.inFlight = none →
    (s.regs.ready = false → s.regs.armed = false → s.fsmOut = 0b00#2) ∧
    (s.regs.ready = false → s.regs.armed = true → s.fsmOut = 0b01#2) ∧
    (s.regs.ready = true → s.regs.armed = true → s.fsmOut = 0b11#2) ∧ s.fsmOut ≠ 0b10#2

/-- A step runs the decoded operation: what the host presents first, if the command port is free and the word decodes to
`i`, is taken and `exec i` is run; the step adds nothing else. -/
def Obligations.StepRunsDecodedOperation : Prop :=
  ∀ (s : State) (e : Encoded) (rest : List PortInput) (i : Instr),
    s.inputs = .word e :: rest → s.inFlight = none → decode s.params e = .ok i →
    step s = exec i { s with inputs := rest }

/-- R277, R96: with nothing presented the core holds every register; the response is over. -/
def Obligations.IdleStepHolds : Prop :=
  ∀ s : State, s.inputs = [] → step s = .next { s with rsp := none, busResult := none }

/-- R278: "The core itself can neither fault nor halt"; and no command word is ever refused (R107). -/
def Obligations.StepNeverFaults : Prop :=
  ∀ s : State, (∀ r, step s ≠ .fault r) ∧
    (∀ r, step s = .refused r → ∃ (w : Frame) (rest : List PortInput), s.inputs = .word (.frame w) :: rest)

/-- The open parameters of R8 are constants: no step changes them (kept in State, log 5). -/
def Obligations.ParametersNeverChange : Prop :=
  ∀ s t : State, step s = .next t → t.params = s.params

/-! ### Invariants -/

/-- Every step keeps the invariant of the registers (I1 to I6, which the spec derives in R26 and R30, and that nothing waits
under an empty mask, R214), from every state that has it. -/
def Obligations.RegisterInvariantKept : Prop :=
  ∀ s t : State, RegsInv s.regs → step s = .next t → RegsInv t.regs

/-- The invariant of the registers holds after reset. -/
def Obligations.RegisterInvariantAtReset : Prop := RegsInv State.reset.regs

/-- The invariants the spec derives in R26 and R30, in every state reachable from reset, whatever the parameters, the environment and the sequence
of host operations. -/
def Obligations.RegisterInvariantOnEveryRun : Prop :=
  ∀ (P : Params) (b : Bus) (xs : List PortInput) (k : Nat) (t : State),
    Host.Core.run core k { State.reset with params := P, bus := b, inputs := xs } = .next t →
    (∀ n : Chan, nibTop t.regs.gsw n = false ∧ nibTop t.regs.gcw n = false ∧ t.regs.gc n ≤ 5#3 ∧
      t.regs.gs n ≤ t.regs.gc n ∧ (maskBit t.regs.am n = false → t.regs.gs n = t.regs.gc n) ∧ t.regs.gs n ≤ 5#3) ∧
    (t.regs.ready = true → t.regs.armed = true)

/-- R223: with a device that takes no START_CONV behind the core's back, every host operation keeps: once armed, the device
holds an enabled channel at the gain code stored for it. -/
def Obligations.EchoInvariantKept : Prop :=
  ∀ (i : Instr) (s t : State), i.isHostOp = true → 13 ≤ s.bus.script.length →
    (∀ r ∈ s.bus.script, r.notHalf = true) → EchoInv s → exec i s = .next t → EchoInv t

/-- The echo invariant holds after reset. -/
def Obligations.EchoInvariantAtReset : Prop := EchoInv State.reset

/-- R223 (a), (b): under the echo invariant, what a POLL answered by the device itself surfaces is an enabled channel's
value, at the gain code stored for that channel before the POLL. -/
def Obligations.FaithfulDeviceSurfacesEnabledChannel : Prop :=
  ∀ s t : State, EchoInv s → s.regs.armed = true → s.regs.ready = false →
    13 ≤ s.bus.script.length → (∀ r ∈ s.bus.script, r.isDevice = true) →
    exec .poll s = .next t → t.regs.ready = true →
    maskBit s.regs.cm t.regs.cache.ch = true ∧ t.regs.cache.gain = s.regs.gs t.regs.cache.ch
end

