-- ==== Sys2Proof/Laws/Bus.lean ====
section
/-!
SUPPORT. The bus: what one primitive does, what a sequence of primitives does, once and for all (R60 to R63, R71, R190
to R194).
-/

namespace Sys2Proof.Machine

theorem Bus.draw_cons (b : Bus) (r : BusReply) (rest : List BusReply) (h : b.script = r :: rest) :
    b.draw = (r, { b with script := rest }) := by
  simp [Bus.draw, h]

theorem Bus.draw_nil (b : Bus) (h : b.script = []) :
    b.draw = (Config.busReply b.drawn, { b with drawn := b.drawn + 1 }) := by
  simp [Bus.draw, h]

/-- Drawing a reply touches neither the trace nor the device. -/
@[simp] theorem Bus.draw_trace (b : Bus) : b.draw.2.trace = b.trace := by
  unfold Bus.draw; split <;> rfl

@[simp] theorem Bus.draw_dev (b : Bus) : b.draw.2.dev = b.dev := by
  unfold Bus.draw; split <;> rfl

@[simp] theorem Bus.after_trace (P : Params) (p : BusPrim) (r : BusReply) (b : Bus) :
    (b.after P p r).trace = b.trace ++ [p] := rfl

@[simp] theorem Bus.after_script (P : Params) (p : BusPrim) (r : BusReply) (b : Bus) :
    (b.after P p r).script = b.script := rfl

@[simp] theorem Bus.after_drawn (P : Params) (p : BusPrim) (r : BusReply) (b : Bus) :
    (b.after P p r).drawn = b.drawn := rfl

@[simp] theorem Bus.after_dev (P : Params) (p : BusPrim) (r : BusReply) (b : Bus) :
    (b.after P p r).dev = replyEffect P p b.dev r := rfl

/-- The bus a piece of bus activity ends with. -/
def BusOut.bus {α : Type} : BusOut α → Bus
  | .done _ b => b
  | .failed _ _ b => b
  | .stuck _ _ b => b

@[simp] theorem BusOut.andThen_done {α β : Type} (a : α) (b : Bus) (f : α → Bus → BusOut β) :
    (BusOut.done a b).andThen f = f a b := rfl

@[simp] theorem BusOut.andThen_failed {α β : Type} (t : Txn) (k : FailKind) (b : Bus) (f : α → Bus → BusOut β) :
    (BusOut.failed t k b).andThen f = .failed t k b := rfl

@[simp] theorem BusOut.andThen_stuck {α β : Type} (t : Txn) (p : BusPrim) (b : Bus) (f : α → Bus → BusOut β) :
    (BusOut.stuck t p b).andThen f = .stuck t p b := rfl

/-- Everything one primitive can do: whichever way it ends, one reply is drawn and one event recorded. -/
theorem Bus.call_cases (P : Params) (t : Txn) (p : BusPrim) (b : Bus) :
    (∃ d, b.call P t p = .done d (b.draw.2.after P p b.draw.1)) ∨
    (∃ k, p.failKind = some k ∧ b.call P t p = .failed t k (b.draw.2.after P p b.draw.1)) ∨
    b.call P t p = .stuck t p (b.draw.2.after P p b.draw.1) := by
  unfold Bus.call
  split
  · exact .inr (.inr rfl)
  · exact .inl ⟨_, rfl⟩
  · split
    · exact .inr (.inl ⟨_, by assumption, rfl⟩)
    · exact .inl ⟨_, rfl⟩

theorem Bus.call_bus (P : Params) (t : Txn) (p : BusPrim) (b : Bus) :
    (b.call P t p).bus = b.draw.2.after P p b.draw.1 := by
  rcases b.call_cases P t p with ⟨d, h⟩ | ⟨k, _, h⟩ | h <;> rw [h] <;> rfl

/-- A primitive answered ok with data `d`. -/
theorem Bus.call_ok (P : Params) (t : Txn) (p : BusPrim) (b : Bus) (d : Reg16) (rest : List BusReply)
    (h : b.script = .ok d :: rest) :
    b.call P t p = .done d { script := rest, drawn := b.drawn, trace := b.trace ++ [p], dev := b.dev.step P p true } := by
  simp [Bus.call, Bus.draw_cons b _ _ h, replyAnswer, Bus.after, replyEffect]

/-- A primitive other than a WRITE answered err. -/
theorem Bus.call_err (P : Params) (t : Txn) (p : BusPrim) (b : Bus) (acted : Bool) (k : FailKind) (rest : List BusReply)
    (h : b.script = .err acted :: rest) (hk : p.failKind = some k) :
    b.call P t p =
      .failed t k { script := rest, drawn := b.drawn, trace := b.trace ++ [p], dev := b.dev.step P p acted } := by
  simp [Bus.call, Bus.draw_cons b _ _ h, replyAnswer, Bus.after, replyEffect, hk]

/-- A primitive that is never answered. -/
theorem Bus.call_never (P : Params) (t : Txn) (p : BusPrim) (b : Bus) (acted : Bool) (rest : List BusReply)
    (h : b.script = .never acted :: rest) :
    b.call P t p =
      .stuck t p { script := rest, drawn := b.drawn, trace := b.trace ++ [p], dev := b.dev.step P p acted } := by
  simp [Bus.call, Bus.draw_cons b _ _ h, replyAnswer, Bus.after, replyEffect]

theorem Bus.calls_nil (P : Params) (t : Txn) (d : Reg16) (b : Bus) : b.calls P t [] d = .done d b := rfl

theorem Bus.calls_cons (P : Params) (t : Txn) (p : BusPrim) (ps : List BusPrim) (d : Reg16) (b : Bus) :
    b.calls P t (p :: ps) d = (b.call P t p).andThen (Bus.calls P t ps) := rfl

/-- Everything a sequence of primitives does to the trace: done, all of them are recorded; failed or stuck, a non-empty
beginning of them (R63, R71). -/
theorem Bus.calls_trace (P : Params) (t : Txn) (ps : List BusPrim) (d : Reg16) (b : Bus) :
    match b.calls P t ps d with
    | .done _ b' => b'.trace = b.trace ++ ps
    | .failed t' _ b' => t' = t ∧ ∃ k, k ≤ ps.length ∧ b'.trace = b.trace ++ ps.take k
    | .stuck t' _ b' => t' = t ∧ ∃ k, k ≤ ps.length ∧ b'.trace = b.trace ++ ps.take k := by
  induction ps generalizing d b with
  | nil => simp [Bus.calls_nil]
  | cons p ps ih =>
    rw [Bus.calls_cons]
    rcases b.call_cases P t p with ⟨d', h⟩ | ⟨k, _, h⟩ | h <;> rw [h]
    · simp only [BusOut.andThen_done]
      have := ih d' (b.draw.2.after P p b.draw.1)
      revert this
      cases Bus.calls P t ps d' (b.draw.2.after P p b.draw.1) with
      | done a b' => simp
      | failed t' k b' =>
        rintro ⟨rfl, k', hk, h'⟩; exact ⟨rfl, k' + 1, by simpa using hk, by simpa using h'⟩
      | stuck t' p' b' =>
        rintro ⟨rfl, k', hk, h'⟩; exact ⟨rfl, k' + 1, by simpa using hk, by simpa using h'⟩
    · exact ⟨rfl, 1, by simp, by simp⟩
    · exact ⟨rfl, 1, by simp, by simp⟩

/-- The device after primitives that are all answered ok. -/
def Device.steps (P : Params) (d : Device) (ps : List BusPrim) : Device := ps.foldl (fun d p => d.step P p true) d

/-- A sequence of primitives whose replies are all ok: done, with the data of the last, and nothing else used up. -/
theorem Bus.calls_ok (P : Params) (t : Txn) (ps : List BusPrim) (ds : List Reg16) (rest : List BusReply) (d0 : Reg16)
    (b : Bus) (h : b.script = ds.map .ok ++ rest) (hl : ds.length = ps.length) :
    b.calls P t ps d0 =
      .done (ds.getLastD d0)
        { script := rest, drawn := b.drawn, trace := b.trace ++ ps, dev := b.dev.steps P ps } := by
  induction ps generalizing ds d0 b with
  | nil =>
    obtain rfl : ds = [] := List.length_eq_zero_iff.mp hl
    simp at h
    simp [Bus.calls_nil, Device.steps, ← h]
  | cons p ps ih =>
    match ds, hl with
    | d :: ds, hl =>
      rw [Bus.calls_cons, Bus.call_ok P t p b d (ds.map .ok ++ rest) (by simpa using h), BusOut.andThen_done,
        ih ds d _ rfl (by simpa using hl), List.getLastD_cons]
      simp [Device.steps]

/-- A sequence of primitives answered ok up to one, not a WRITE, that is answered err: failed there (R63, R194). -/
theorem Bus.calls_err (P : Params) (t : Txn) (ps qs : List BusPrim) (p : BusPrim) (ds : List Reg16) (acted : Bool)
    (rest : List BusReply) (d0 : Reg16) (b : Bus) (k : FailKind) (h : b.script = ds.map .ok ++ .err acted :: rest)
    (hl : ds.length = ps.length) (hk : p.failKind = some k) :
    b.calls P t (ps ++ p :: qs) d0 =
      .failed t k { script := rest, drawn := b.drawn, trace := b.trace ++ (ps ++ [p])
                    dev := (b.dev.steps P ps).step P p acted } := by
  induction ps generalizing ds d0 b with
  | nil =>
    obtain rfl : ds = [] := List.length_eq_zero_iff.mp hl
    simp only [List.nil_append, Bus.calls_cons]
    rw [Bus.call_err P t p b acted k rest (by simpa using h) hk]; rfl
  | cons q ps ih =>
    match ds, hl with
    | d :: ds, hl =>
      simp only [List.cons_append, Bus.calls_cons]
      rw [Bus.call_ok P t q b d (ds.map .ok ++ .err acted :: rest) (by simpa using h), BusOut.andThen_done,
        ih ds d _ rfl (by simpa using hl)]
      simp [Device.steps]

/-- A sequence of primitives answered ok up to one that is never answered: stuck there (R278 a). -/
theorem Bus.calls_never (P : Params) (t : Txn) (ps qs : List BusPrim) (p : BusPrim) (ds : List Reg16) (acted : Bool)
    (rest : List BusReply) (d0 : Reg16) (b : Bus) (h : b.script = ds.map .ok ++ .never acted :: rest)
    (hl : ds.length = ps.length) :
    b.calls P t (ps ++ p :: qs) d0 =
      .stuck t p { script := rest, drawn := b.drawn, trace := b.trace ++ (ps ++ [p])
                   dev := (b.dev.steps P ps).step P p acted } := by
  induction ps generalizing ds d0 b with
  | nil =>
    obtain rfl : ds = [] := List.length_eq_zero_iff.mp hl
    simp only [List.nil_append, Bus.calls_cons]
    rw [Bus.call_never P t p b acted rest (by simpa using h)]; rfl
  | cons q ps ih =>
    match ds, hl with
    | d :: ds, hl =>
      simp only [List.cons_append, Bus.calls_cons]
      rw [Bus.call_ok P t q b d (ds.map .ok ++ .never acted :: rest) (by simpa using h), BusOut.andThen_done,
        ih ds d _ rfl (by simpa using hl)]
      simp [Device.steps]

/-- The same by position: the failing primitive is the one after as many ok answers. -/
theorem Bus.calls_err_at (P : Params) (t : Txn) (ps : List BusPrim) (p : BusPrim) (ds : List Reg16) (acted : Bool)
    (rest : List BusReply) (d0 : Reg16) (b : Bus) (k : FailKind) (h : b.script = ds.map .ok ++ .err acted :: rest)
    (hp : ps[ds.length]? = some p) (hk : p.failKind = some k) :
    b.calls P t ps d0 =
      .failed t k { script := rest, drawn := b.drawn, trace := b.trace ++ ps.take (ds.length + 1)
                    dev := (b.dev.steps P (ps.take ds.length)).step P p acted } := by
  obtain ⟨hl, hp⟩ := List.getElem?_eq_some_iff.mp hp
  have := Bus.calls_err P t (ps.take ds.length) (ps.drop (ds.length + 1)) p ds acted rest d0 b k h
    (by simp; omega) hk
  rwa [← hp, ← List.drop_eq_getElem_cons hl, List.take_append_drop, List.take_append_getElem hl, hp] at this

/-- The same by position: the unanswered primitive is the one after as many ok answers. -/
theorem Bus.calls_never_at (P : Params) (t : Txn) (ps : List BusPrim) (p : BusPrim) (ds : List Reg16) (acted : Bool)
    (rest : List BusReply) (d0 : Reg16) (b : Bus) (h : b.script = ds.map .ok ++ .never acted :: rest)
    (hp : ps[ds.length]? = some p) :
    b.calls P t ps d0 =
      .stuck t p { script := rest, drawn := b.drawn, trace := b.trace ++ ps.take (ds.length + 1)
                   dev := (b.dev.steps P (ps.take ds.length)).step P p acted } := by
  obtain ⟨hl, hp⟩ := List.getElem?_eq_some_iff.mp hp
  have := Bus.calls_never P t (ps.take ds.length) (ps.drop (ds.length + 1)) p ds acted rest d0 b h
    (by simp; omega)
  rwa [← hp, ← List.drop_eq_getElem_cons hl, List.take_append_drop, List.take_append_getElem hl, hp] at this

/-- REG_READ with every primitive answered ok (R190). -/
theorem Bus.regRead_ok (P : Params) (t : Txn) (ptr : Byte) (b : Bus) (ds : List Reg16) (rest : List BusReply)
    (h : b.script = ds.map .ok ++ rest) (hl : ds.length = 4) :
    b.regRead P t ptr = .done (ds.getD 3 0#16)
      { script := rest, drawn := b.drawn, trace := b.trace ++ readPrims P ptr, dev := b.dev.steps P (readPrims P ptr) } := by
  unfold Bus.regRead
  rw [Bus.calls_ok P t _ ds rest _ b h (by simpa [readPrims] using hl)]
  match ds, hl with
  | [_, _, _, _], _ => rfl

/-- START_CONV with every primitive answered ok (R193). -/
theorem Bus.startConv_ok (P : Params) (c : Chan) (g : Code) (b : Bus) (ds : List Reg16) (rest : List BusReply)
    (h : b.script = ds.map .ok ++ rest) (hl : ds.length = 5) :
    b.startConv P c g = .done ()
      { script := rest, drawn := b.drawn, trace := b.trace ++ startPrims P c g
        dev := b.dev.steps P (startPrims P c g) } := by
  unfold Bus.startConv
  rw [Bus.calls_ok P .startConv _ ds rest _ b h (by simpa [startPrims] using hl)]; rfl

/-- However a sequence of primitives ends, its trace is a beginning of them. -/
theorem Bus.calls_bus_trace (P : Params) (t : Txn) (ps : List BusPrim) (d : Reg16) (b : Bus) :
    ∃ k, (b.calls P t ps d).bus.trace = b.trace ++ ps.take k := by
  have h := b.calls_trace P t ps d
  cases hc : b.calls P t ps d with
  | done a b' => rw [hc] at h; exact ⟨ps.length, by simpa [BusOut.bus] using h⟩
  | failed t' k b' => rw [hc] at h; obtain ⟨-, n, -, h⟩ := h; exact ⟨n, h⟩
  | stuck t' p b' => rw [hc] at h; obtain ⟨-, n, -, h⟩ := h; exact ⟨n, h⟩

/-- However a primitive ends, what follows it only adds to a trace that already shows it. -/
theorem Bus.calls_cons_trace (P : Params) (t : Txn) (p : BusPrim) (ps : List BusPrim) (d : Reg16) (b : Bus) :
    ∃ l, (b.calls P t (p :: ps) d).bus.trace = b.trace ++ p :: l := by
  rw [Bus.calls_cons]
  rcases b.call_cases P t p with ⟨d', h⟩ | ⟨k, -, h⟩ | h <;> rw [h]
  · obtain ⟨k, hk⟩ := Bus.calls_bus_trace P t ps d' (b.draw.2.after P p b.draw.1)
    exact ⟨ps.take k, by simpa using hk⟩
  · exact ⟨[], by simp [BusOut.bus]⟩
  · exact ⟨[], by simp [BusOut.bus]⟩

/-- The config byte shows the gain code (R101, R105). -/
theorem configMsb_gain_inj {P : Params} {c : Chan} {g g' : Code} (h : configMsb P c g = configMsb P c g') : g = g' := by
  revert h; unfold configMsb; generalize P.cfgMsbBit0 = m; revert m c g g'; decide

/-- A common first primitive tells two sequences apart in nothing. -/
theorem Bus.calls_cons_inj (P : Params) (t : Txn) (p : BusPrim) (ps ps' : List BusPrim) (d : Reg16) (b : Bus)
    (h : ∀ (d : Reg16) (b : Bus), (b.calls P t ps d).bus.trace = (b.calls P t ps' d).bus.trace →
      b.calls P t ps d = b.calls P t ps' d)
    (e : (b.calls P t (p :: ps) d).bus.trace = (b.calls P t (p :: ps') d).bus.trace) :
    b.calls P t (p :: ps) d = b.calls P t (p :: ps') d := by
  simp only [Bus.calls_cons] at e ⊢
  cases hc : b.call P t p with
  | done d' b' => rw [hc] at e; exact h d' b' e
  | failed t' k b' => rfl
  | stuck t' q b' => rfl

/-- What START_CONV does depends on its gain code only as far as its trace shows it; done, it has shown the code. -/
theorem Bus.startConv_gain (P : Params) (c : Chan) (g g' : Code) (b : Bus)
    (h : (b.startConv P c g).bus.trace = (b.startConv P c g').bus.trace) :
    b.startConv P c g = b.startConv P c g' ∧ ∀ u b', b.startConv P c g = .done u b' → g = g' := by
  have hb (g : Code) : (b.startConv P c g).bus = (b.calls P .startConv (startPrims P c g) 0#16).bus := by
    unfold Bus.startConv; cases b.calls P .startConv (startPrims P c g) 0#16 <;> rfl
  rw [hb, hb] at h
  have e : b.calls P .startConv (startPrims P c g) 0#16 = b.calls P .startConv (startPrims P c g') 0#16 := by
    refine Bus.calls_cons_inj P _ _ _ _ _ b (fun d b h => Bus.calls_cons_inj P _ _ _ _ _ b (fun d b h => ?_) h) h
    obtain ⟨l, hl⟩ := Bus.calls_cons_trace P .startConv (.writeByte (configMsb P c g)) [.writeByte P.cfgLsb, .endTxn] d b
    obtain ⟨l', hl'⟩ :=
      Bus.calls_cons_trace P .startConv (.writeByte (configMsb P c g')) [.writeByte P.cfgLsb, .endTxn] d b
    rw [hl, hl'] at h
    simp only [List.append_cancel_left_eq, List.cons.injEq, BusPrim.writeByte.injEq] at h
    rw [configMsb_gain_inj h.1]
  refine ⟨by unfold Bus.startConv; rw [e], fun u b' hd => ?_⟩
  have h1 := b.calls_trace P .startConv (startPrims P c g) 0#16
  have h2 := b.calls_trace P .startConv (startPrims P c g') 0#16
  unfold Bus.startConv at hd
  rw [← e] at h2
  cases hc : b.calls P .startConv (startPrims P c g) 0#16 with
  | done a b'' =>
    rw [hc] at h1 h2
    have h3 := h1.symm.trans h2
    simp only [startPrims, List.append_cancel_left_eq, List.cons.injEq, BusPrim.writeByte.injEq] at h3
    exact configMsb_gain_inj h3.2.2.1
  | failed t k b'' => rw [hc] at hd; cases hd
  | stuck t p b'' => rw [hc] at hd; cases hd

end Sys2Proof.Machine
end

