-- ==== Sys2Proof/Laws/Nibbles.lean ====
section
/-!
SUPPORT. What the nibble operations do to a packed word, bit by bit and nibble by nibble (R150 to R152), and what
CONFIGURE's loop over the channels builds (R211).
-/

namespace Sys2Proof.Machine

theorem nibWrite_getLsbD (w : Nibw) (n : Chan) (c : Code) (i : Nat) :
    (nibWrite w n c).getLsbD i =
      if 4 * n.toNat ≤ i ∧ i < 4 * n.toNat + 4 then c.getLsbD (i - 4 * n.toNat) else w.getLsbD i := by
  have hn := n.isLt
  by_cases hi : i < 32
  · simp only [nibWrite, nibClear, BitVec.getLsbD_or, BitVec.getLsbD_and, BitVec.getLsbD_not,
      BitVec.getLsbD_shiftLeft, BitVec.getLsbD_setWidth, hi]
    by_cases h1 : i < 4 * n.toNat
    · rw [if_neg (by omega)]; simp [h1]
    · by_cases h2 : i < 4 * n.toNat + 4
      · have : i - 4 * n.toNat < 4 := by omega
        have hF : (0xF#32).getLsbD (i - 4 * n.toNat) = true := by
          generalize i - 4 * n.toNat = k at this; interval_cases k <;> rfl
        rw [if_pos (by omega)]
        simp [h1, hF]; omega
      · have : ¬ (i - 4 * n.toNat < 4) := by omega
        have hF : (0xF#32).getLsbD (i - 4 * n.toNat) = false := by
          rw [BitVec.getLsbD_ofNat]
          have : Nat.testBit 15 (i - 4 * n.toNat) = false := by
            apply Nat.testBit_lt_two_pow; calc 15 < 2^4 := by norm_num
              _ ≤ _ := Nat.pow_le_pow_right (by norm_num) (by omega)
          simp [this]
        have hc : c.getLsbD (i - 4 * n.toNat) = false := BitVec.getLsbD_of_ge _ _ (by omega)
        rw [if_neg (by omega)]
        simp [hF, hc]
  · rw [BitVec.getLsbD_of_ge _ _ (by omega), BitVec.getLsbD_of_ge _ i (by omega)]
    rw [if_neg (by omega)]

theorem nibRead_getLsbD (w : Nibw) (n : Chan) (i : Nat) :
    (nibRead w n).getLsbD i = (decide (i < 3) && w.getLsbD (4 * n.toNat + i)) := by
  simp [nibRead]

theorem nibRead_nibWrite (w : Nibw) (n m : Chan) (c : Code) :
    nibRead (nibWrite w n c) m = if m = n then c else nibRead w m := by
  ext i hi
  rw [← BitVec.getLsbD_eq_getElem, nibRead_getLsbD, nibWrite_getLsbD]
  by_cases h : m = n
  · subst h; simp [hi]; intro h; omega
  · have : m.toNat ≠ n.toNat := fun e => h (BitVec.eq_of_toNat_eq e)
    rw [if_neg (by omega), if_neg h, ← BitVec.getLsbD_eq_getElem, nibRead_getLsbD]

theorem nibTop_nibWrite (w : Nibw) (n m : Chan) (c : Code) :
    nibTop (nibWrite w n c) m = if m = n then false else nibTop w m := by
  simp only [nibTop, nibWrite_getLsbD]
  by_cases h : m = n
  · subst h; simp
  · have : m.toNat ≠ n.toNat := fun e => h (BitVec.eq_of_toNat_eq e)
    rw [if_neg (by omega), if_neg h]

theorem foldl_nibWrite (f : Chan → Code) (l : List Chan) (w : Nibw) (m : Chan) :
    nibRead (l.foldl (fun w n => nibWrite w n (f n)) w) m = (if m ∈ l then f m else nibRead w m) ∧
    nibTop (l.foldl (fun w n => nibWrite w n (f n)) w) m = (if m ∈ l then false else nibTop w m) := by
  induction l generalizing w with
  | nil => simp
  | cons a l ih =>
    simp only [List.foldl_cons, ih, nibRead_nibWrite, nibTop_nibWrite, List.mem_cons]
    by_cases h : m ∈ l <;> by_cases h' : m = a <;> simp [h, h']

theorem mem_allChans (n : Chan) : n ∈ allChans := by revert n; decide

theorem nibRead_packNibs (f : Chan → Code) (n : Chan) : nibRead (packNibs f) n = f n := by
  rw [packNibs, (foldl_nibWrite f allChans 0#32 n).1, if_pos (mem_allChans n)]

theorem nibTop_packNibs (f : Chan → Code) (n : Chan) : nibTop (packNibs f) n = false := by
  rw [packNibs, (foldl_nibWrite f allChans 0#32 n).2, if_pos (mem_allChans n)]

/-- The ceilings CONFIGURE stores (R98, R211). -/
theorem nibRead_initGcw (ceil : Nibw) (n : Chan) : nibRead (initGcw ceil) n = normCeil ceil n := by
  rw [initGcw, nibRead_packNibs]

/-- The gain codes CONFIGURE stores (R23, R211). -/
theorem nibRead_initGsw (am : Mask) (ceil : Nibw) (n : Chan) :
    nibRead (initGsw am ceil) n = if maskBit am n then 0#3 else normCeil ceil n := by
  rw [initGsw, nibRead_packNibs]

theorem nibTop_initGcw (ceil : Nibw) (n : Chan) : nibTop (initGcw ceil) n = false := by
  rw [initGcw, nibTop_packNibs]

theorem nibTop_initGsw (am : Mask) (ceil : Nibw) (n : Chan) : nibTop (initGsw am ceil) n = false := by
  rw [initGsw, nibTop_packNibs]

end Sys2Proof.Machine
end

