-- ==== Sys2Proof/Laws/Gain.lean ====
section
/-!
SUPPORT. The gain controller: the bands, the search and its bounds, the clamp (R154 to R161).
-/

namespace Sys2Proof.Machine

theorem abs12_toNat (raw : Raw) : (abs12 raw).toNat = raw.toInt.natAbs := by
  have h1 := BitVec.le_toInt raw
  have h2 := BitVec.toInt_lt (x := raw)
  simp only [abs12, BitVec.toNat_ofNat]
  norm_num at h1 h2 ⊢
  omega

theorem abs12_le (raw : Raw) : (abs12 raw).toNat ≤ 2048 := by
  have h1 := BitVec.le_toInt raw
  have h2 := BitVec.toInt_lt (x := raw)
  rw [abs12_toNat]
  norm_num at h1 h2
  omega

theorem band_increase_iff (a : Nat) : band a = .increase ↔ a < 1024 := by
  unfold band tInc tDec tOvf; split_ifs <;> simp <;> omega

theorem band_hold_iff (a : Nat) : band a = .hold ↔ 1024 ≤ a ∧ a ≤ 1945 := by
  unfold band tInc tDec tOvf; split_ifs <;> simp <;> omega

theorem band_decrease_iff (a : Nat) : band a = .decrease ↔ 1946 ≤ a ∧ a ≤ 2044 := by
  unfold band tInc tDec tOvf; split_ifs <;> simp <;> omega

theorem band_overflow_iff (a : Nat) : band a = .overflow ↔ 2045 ≤ a := by
  unfold band tInc tDec tOvf; split_ifs <;> simp <;> omega

theorem overflowed_iff (am : Mask) (n : Chan) (raw : Raw) :
    overflowed am n raw = true ↔ maskBit am n = true ∧ 2045 ≤ (abs12 raw).toNat := by
  simp [overflowed, band_overflow_iff]

theorem minCode_toNat (a b : Code) : (minCode a b).toNat = min a.toNat b.toNat := by
  unfold minCode; split <;> rename_i h <;> simp only [BitVec.le_def] at h <;> omega

theorem minCode_le_right (a b : Code) : minCode a b ≤ b := by
  rw [BitVec.le_def, minCode_toNat]; omega

theorem normCeil_le (ceil : Nibw) (n : Chan) : normCeil ceil n ≤ 5#3 := minCode_le_right _ _

/-- The search never goes down, never past 5 unless it started there, and takes at most `fuel` steps. -/
theorem searchFrom_bounds (a fuel code j : Nat) :
    code ≤ searchFrom a fuel code j ∧ searchFrom a fuel code j ≤ max code 5 ∧
      searchFrom a fuel code j ≤ code + fuel := by
  induction fuel generalizing code j with
  | zero => simp [searchFrom]
  | succ fuel ih =>
    simp only [searchFrom]
    split_ifs with h1 h2
    · have := ih (code + 1) (2 * j); omega
    · omega
    · omega

theorem search_toNat (a : Nat) (cur : Code) :
    (search a cur).toNat = searchFrom a 5 cur.toNat (searchJ0 cur) := by
  have h := searchFrom_bounds a 5 cur.toNat (searchJ0 cur)
  have := cur.isLt
  simp only [search, BitVec.toNat_ofNat]
  apply Nat.mod_eq_of_lt; omega

/-- Where the gain search can end: between the code it started from and the larger of that code and 5. -/
theorem search_bounds (a : Nat) (cur : Code) :
    cur.toNat ≤ (search a cur).toNat ∧ (search a cur).toNat ≤ max cur.toNat 5 := by
  have h := searchFrom_bounds a 5 cur.toNat (searchJ0 cur)
  rw [search_toNat]; omega

/-- Below the ceiling the controller stays below it (R159, R161 item 2). -/
theorem adjustAuto_le (gc cur : Code) (a : Nat) (h : cur ≤ gc) : adjustAuto gc cur a ≤ gc := by
  unfold adjustAuto
  rw [BitVec.le_def] at *
  split
  · rw [minCode_toNat]; omega
  · exact h
  · split_ifs with h0
    · simp
    · have : cur.toNat ≠ 0 := fun e => h0 (BitVec.eq_of_toNat_eq e)
      rw [BitVec.toNat_sub_of_le (by rw [BitVec.le_def]; simpa using Nat.one_le_iff_ne_zero.mpr this)]
      simp; omega
  · simp

theorem adjust_auto (r : Regs) (n : Chan) (cur : Code) (raw : Raw) (h : maskBit r.am n = true) :
    adjust r n cur raw = (adjustAuto (r.gc n) cur (abs12 raw).toNat, decide (2045 ≤ (abs12 raw).toNat)) := by
  simp [adjust, h, overflowed, band_overflow_iff]

theorem adjust_fixed (r : Regs) (n : Chan) (cur : Code) (raw : Raw) (h : maskBit r.am n = false) :
    adjust r n cur raw = (cur, false) := by
  simp [adjust, h]

end Sys2Proof.Machine
end

