-- ==== Sys2Proof/Laws/State.lean ====
section
/-!
SUPPORT. One lemma per field for each way a state is updated, all by rfl: no later proof unfolds a record update.
-/

namespace Sys2Proof.Machine

section
variable (s : State) (regs : Regs) (r : Response) (e : Exc) (b : Bus) (t : Txn) (p : BusPrim) (q : Bool) (x : BusResult)

@[simp] theorem State.respond_params : (s.respond regs r b).params = s.params := rfl
@[simp] theorem State.respond_regs : (s.respond regs r b).regs = regs := rfl
@[simp] theorem State.respond_bus : (s.respond regs r b).bus = b := rfl
@[simp] theorem State.respond_inputs : (s.respond regs r b).inputs = s.inputs := rfl
@[simp] theorem State.respond_rsp : (s.respond regs r b).rsp = some r.word := rfl
@[simp] theorem State.respond_inFlight : (s.respond regs r b).inFlight = s.inFlight := rfl
@[simp] theorem State.respond_busResult : (s.respond regs r b).busResult = none := rfl

@[simp] theorem State.raise_params : (s.raise e b).params = s.params := rfl
@[simp] theorem State.raise_regs : (s.raise e b).regs = s.regs := rfl
@[simp] theorem State.raise_bus : (s.raise e b).bus = b := rfl
@[simp] theorem State.raise_inputs : (s.raise e b).inputs = s.inputs := rfl
@[simp] theorem State.raise_rsp : (s.raise e b).rsp = some (e.response s.regs.ready).word := rfl
@[simp] theorem State.raise_inFlight : (s.raise e b).inFlight = s.inFlight := rfl
@[simp] theorem State.raise_busResult : (s.raise e b).busResult = none := rfl

@[simp] theorem Exc.response_commError (v : Bool) (k : FailKind) :
    (Exc.commError t k).response v = { status := .commError, v := v, info := k.code ++ t.code } := rfl
@[simp] theorem Exc.response_noChannelSelected (v : Bool) :
    Exc.noChannelSelected.response v = { status := .noChannelSelected, v := v } := rfl
@[simp] theorem Exc.response_illegalOp (v : Bool) : Exc.illegalOp.response v = { status := .illegalOp } := rfl

@[simp] theorem State.hang_params : (s.hang t p q b).params = s.params := rfl
@[simp] theorem State.hang_regs : (s.hang t p q b).regs = s.regs := rfl
@[simp] theorem State.hang_bus : (s.hang t p q b).bus = b := rfl
@[simp] theorem State.hang_inputs : (s.hang t p q b).inputs = s.inputs := rfl
@[simp] theorem State.hang_rsp : (s.hang t p q b).rsp = none := rfl
@[simp] theorem State.hang_inFlight : (s.hang t p q b).inFlight = some ⟨t, p, q⟩ := rfl
@[simp] theorem State.hang_busResult : (s.hang t p q b).busResult = none := rfl

@[simp] theorem State.handBack_params : (s.handBack x b).params = s.params := rfl
@[simp] theorem State.handBack_regs : (s.handBack x b).regs = s.regs := rfl
@[simp] theorem State.handBack_bus : (s.handBack x b).bus = b := rfl
@[simp] theorem State.handBack_inputs : (s.handBack x b).inputs = s.inputs := rfl
@[simp] theorem State.handBack_rsp : (s.handBack x b).rsp = none := rfl
@[simp] theorem State.handBack_inFlight : (s.handBack x b).inFlight = s.inFlight := rfl
@[simp] theorem State.handBack_busResult : (s.handBack x b).busResult = some x := rfl

@[simp] theorem State.quiet_params : (s.quiet).params = s.params := rfl
@[simp] theorem State.quiet_regs : (s.quiet).regs = s.regs := rfl
@[simp] theorem State.quiet_bus : (s.quiet).bus = s.bus := rfl
@[simp] theorem State.quiet_inputs : (s.quiet).inputs = s.inputs := rfl
@[simp] theorem State.quiet_rsp : (s.quiet).rsp = none := rfl
@[simp] theorem State.quiet_inFlight : (s.quiet).inFlight = s.inFlight := rfl
@[simp] theorem State.quiet_busResult : (s.quiet).busResult = none := rfl

@[simp] theorem State.hardReset_params : (s.hardReset).params = s.params := rfl
@[simp] theorem State.hardReset_regs : (s.hardReset).regs = Regs.zero := rfl
@[simp] theorem State.hardReset_bus : (s.hardReset).bus = s.bus := rfl
@[simp] theorem State.hardReset_inputs : (s.hardReset).inputs = s.inputs := rfl
@[simp] theorem State.hardReset_rsp : (s.hardReset).rsp = none := rfl
@[simp] theorem State.hardReset_inFlight : (s.hardReset).inFlight = none := rfl
@[simp] theorem State.hardReset_busResult : (s.hardReset).busResult = none := rfl

end

end Sys2Proof.Machine
end

