-- ==== Sys2Proof/Laws/Control.lean ====
section
/-!
SUPPORT. What a host operation can do, said once: the ways its bus activity goes on, the ways START and POLL end, and the
scheduler's answer (R180, R212, R213, R268).
-/

namespace Sys2Proof.Machine

/-- Everything `onBus` can do. -/
theorem State.onBus_cases {α : Type} (s : State) (q : Bool) (o : BusOut α) (k : α → Bus → State) :
    (∃ a b, o = .done a b ∧ s.onBus q o k = k a b) ∨
    (∃ t f b, o = .failed t f b ∧ s.onBus q o k = s.raise (.commError t f) b) ∨
    (∃ t p b, o = .stuck t p b ∧ s.onBus q o k = s.hang t p q b) := by
  cases o with
  | done a b => exact .inl ⟨a, b, rfl, rfl⟩
  | failed t f b => exact .inr (.inl ⟨t, f, b, rfl, rfl⟩)
  | stuck t p b => exact .inr (.inr ⟨t, p, b, rfl, rfl⟩)

/-- Everything a bus operation run by itself does to the machine: no register of the core changes. -/
theorem State.runBus_cases {α : Type} (s : State) (o : BusOut α) (f : α → BusResult) :
    (∃ r, s.runBus o f = s.handBack r o.bus) ∨ (∃ t p, s.runBus o f = s.hang t p false o.bus) := by
  cases o with
  | done a b => exact .inl ⟨_, rfl⟩
  | failed t k b => exact .inl ⟨_, rfl⟩
  | stuck t p b => exact .inr ⟨t, p, rfl⟩

/-- What NEXT answers is an enabled channel. -/
theorem next_enabled (cm : Mask) (last : Option Chan) (c : Chan) (h : next cm last = some c) : maskBit cm c = true := by
  simpa using List.find?_some h

/-- NEXT answers a channel whenever one is enabled: the scan meets all eight. -/
theorem next_isSome (cm : Mask) (last : Option Chan) (n : Chan) (h : maskBit cm n = true) :
    ∃ c, next cm last = some c := by
  rw [← Option.isSome_iff_exists, next, List.find?_isSome]
  refine ⟨n, ?_, h⟩
  rw [List.mem_map]
  exact ⟨n - scanStart last, mem_allChans _, by simp⟩

theorem exists_enabled (cm : Mask) (h : cm ≠ 0#8) : ∃ n : Chan, maskBit cm n = true := by
  revert h; revert cm; decide

/-- Everything START can do. -/
theorem startOp_cases (s : State) :
    (s.regs.cm = 0#8 ∧ startOp s = s.raise .noChannelSelected s.bus) ∨
    (s.regs.cm ≠ 0#8 ∧ ∃ c, next s.regs.cm none = some c ∧ startOp s = startAt s c) := by
  unfold startOp
  split_ifs with h
  · exact .inl ⟨h, rfl⟩
  · obtain ⟨n, hn⟩ := exists_enabled _ h
    obtain ⟨c, hc⟩ := next_isSome _ none n hn
    exact .inr ⟨h, c, hc, by simp [hc]⟩

/-- Everything POLL can do (R213, R268): an early answer; a failure or a stop in one of its three bus operations; BUSY; or a
completed conversion, committed. -/
theorem pollOp_cases (s : State) :
    (s.regs.cm = 0#8 ∧ pollOp s = s.raise .noChannelSelected s.bus) ∨
    (s.regs.cm ≠ 0#8 ∧ s.regs.ready = true ∧
      pollOp s = s.respond s.regs { status := .channelReady, v := true, ch := s.regs.cache.ch } s.bus) ∨
    (s.regs.cm ≠ 0#8 ∧ s.regs.ready = false ∧
      ((∃ t k b, s.bus.statusRead s.params = .failed t k b ∧ pollOp s = s.raise (.commError t k) b) ∨
       (∃ t p b, s.bus.statusRead s.params = .stuck t p b ∧ pollOp s = s.hang t p false b) ∨
       (∃ st b, s.bus.statusRead s.params = .done st b ∧ st.devReady = false ∧
          pollOp s = s.respond s.regs { status := .busy } b) ∨
       (∃ st b, s.bus.statusRead s.params = .done st b ∧ st.devReady = true ∧
          ((∃ t k b', b.resultRead s.params = .failed t k b' ∧ pollOp s = s.raise (.commError t k) b') ∨
           (∃ t p b', b.resultRead s.params = .stuck t p b' ∧ pollOp s = s.hang t p true b') ∨
           (∃ raw b' nxt, b.resultRead s.params = .done raw b' ∧ next s.regs.cm (some st.ch) = some nxt ∧
              ((∃ t k b'', b'.startConv s.params nxt (nibRead (adjustedGsw s.regs st.ch raw) nxt) = .failed t k b'' ∧
                  pollOp s = s.raise (.commError t k) b'') ∨
               (∃ t p b'', b'.startConv s.params nxt (nibRead (adjustedGsw s.regs st.ch raw) nxt) = .stuck t p b'' ∧
                  pollOp s = s.hang t p true b'') ∨
               (∃ b'', b'.startConv s.params nxt (nibRead (adjustedGsw s.regs st.ch raw) nxt) = .done () b'' ∧
                  pollOp s = s.respond (pollCommit s.regs st raw) (pollResponse s.regs st raw) b''))))))) := by
  unfold pollOp
  split_ifs with h1 h2
  · exact .inl ⟨h1, rfl⟩
  · exact .inr (.inl ⟨h1, h2, rfl⟩)
  · refine .inr (.inr ⟨h1, by simpa using h2, ?_⟩)
    unfold pollBus
    rcases hs : s.bus.statusRead s.params with ⟨st, b⟩ | ⟨t, k, b⟩ | ⟨t, p, b⟩
    · by_cases hd : st.devReady = true
      · refine .inr (.inr (.inr ⟨st, b, rfl, hd, ?_⟩))
        rcases hr : b.resultRead s.params with ⟨raw, b'⟩ | ⟨t, k, b'⟩ | ⟨t, p, b'⟩
        · obtain ⟨n, hn⟩ := exists_enabled _ h1
          obtain ⟨nxt, hx⟩ := next_isSome _ (some st.ch) n hn
          refine .inr (.inr ⟨raw, b', nxt, rfl, hx, ?_⟩)
          rcases hc : b'.startConv s.params nxt (nibRead (adjustedGsw s.regs st.ch raw) nxt) with
            ⟨u, b''⟩ | ⟨t, k, b''⟩ | ⟨t, p, b''⟩
          · exact .inr (.inr ⟨b'', rfl, by simp [State.onBus, hd, hr, pollFinish, hx, hc]⟩)
          · exact .inl ⟨t, k, b'', rfl, by simp [State.onBus, hd, hr, pollFinish, hx, hc]⟩
          · exact .inr (.inl ⟨t, p, b'', rfl, by simp [State.onBus, hd, hr, pollFinish, hx, hc]⟩)
        · exact .inl ⟨t, k, b', rfl, by simp [State.onBus, hd, hr]⟩
        · exact .inr (.inl ⟨t, p, b', rfl, by simp [State.onBus, hd, hr]⟩)
      · have hd' : st.devReady = false := by simpa using hd
        exact .inr (.inr (.inl ⟨st, b, rfl, hd', by simp [State.onBus, hd']⟩))
    · exact .inl ⟨t, k, b, rfl, rfl⟩
    · exact .inr (.inl ⟨t, p, b, rfl, rfl⟩)

/-- The registers after a committed POLL: the masks and ceilings stay; `armed` is set; the cache and `ready` change together
or not at all. -/
theorem pollCommit_fields (r : Regs) (st : StatusBits) (raw : Raw) :
    (pollCommit r st raw).cm = r.cm ∧ (pollCommit r st raw).am = r.am ∧ (pollCommit r st raw).gcw = r.gcw ∧
    (pollCommit r st raw).gsw = adjustedGsw r st.ch raw ∧ (pollCommit r st raw).armed = true ∧
    (((pollCommit r st raw).ready = true ∧ (adjust r st.ch (r.gs st.ch) raw).2 = false ∧
        (pollCommit r st raw).cache = { ch := st.ch, vq := convert raw st.gain, gain := st.gain } ∧
        pollResponse r st raw = { status := .channelReady, v := true, ch := st.ch }) ∨
     ((pollCommit r st raw).ready = r.ready ∧ (adjust r st.ch (r.gs st.ch) raw).2 = true ∧
        (pollCommit r st raw).cache = r.cache ∧ pollResponse r st raw = { status := .busy })) := by
  unfold pollCommit pollResponse validOf
  cases h : (adjust r st.ch (r.gs st.ch) raw).2 <;> simp

/-- The accessors' response does not depend on the gain registers (R25). -/
theorem accessorResponse_gains (r : Regs) (gs gc : Nibw) (data : BitVec 17) :
    accessorResponse { r with gsw := gs, gcw := gc } data = accessorResponse r data := rfl

/-- The response of a POLL that completes does not depend on the gain registers (R25): overflow is a matter of the mask and
the magnitude (R161 item 3). -/
theorem pollResponse_gains (r : Regs) (gs gc : Nibw) (st : StatusBits) (raw : Raw) :
    pollResponse { r with gsw := gs, gcw := gc } st raw = pollResponse r st raw := by
  cases h : maskBit r.am st.ch
  · simp [pollResponse, adjust, h]
  · simp [pollResponse, adjust, h]

/-- The machine with other gain registers. -/
def State.withGains (s : State) (gs gc : Nibw) : State := { s with regs := { s.regs with gsw := gs, gcw := gc } }

theorem State.onBus_bus {α : Type} (s : State) (q : Bool) (o : BusOut α) (k : α → Bus → State)
    (hk : ∀ a b, (k a b).bus = b) : (s.onBus q o k).bus = o.bus := by
  cases o with
  | done a b => exact hk a b
  | failed t f b => rfl
  | stuck t p b => rfl

theorem startAt_gains (s : State) (gs gc : Nibw) (c : Chan)
    (h : (startAt s c).bus.trace = (startAt (s.withGains gs gc) c).bus.trace) :
    (startAt s c).rsp = (startAt (s.withGains gs gc) c).rsp := by
  unfold startAt at h ⊢
  rw [State.onBus_bus _ _ _ _ fun _ _ => rfl, State.onBus_bus _ _ _ _ fun _ _ => rfl] at h
  obtain ⟨e, hg⟩ := Bus.startConv_gain s.params c (s.regs.gs c) ((s.withGains gs gc).regs.gs c) s.bus h
  change _ = (State.onBus _ _ (s.bus.startConv s.params c _) _).rsp
  rw [← e]
  rcases hc : s.bus.startConv s.params c (s.regs.gs c) with ⟨u, b⟩ | ⟨t, k, b⟩ | ⟨t, p, b⟩
  · simp only [State.onBus, State.respond_rsp, ← hg u b hc]; rfl
  · rfl
  · rfl

theorem pollFinish_gains (s : State) (gs gc : Nibw) (st : StatusBits) (raw : Raw) (b : Bus)
    (h : (pollFinish s st raw b).bus.trace = (pollFinish (s.withGains gs gc) st raw b).bus.trace) :
    (pollFinish s st raw b).rsp = (pollFinish (s.withGains gs gc) st raw b).rsp := by
  unfold pollFinish at h ⊢
  change _ = (match next s.regs.cm (some st.ch) with | none => _ | some nxt => _ : State).bus.trace at h
  change _ = (match next s.regs.cm (some st.ch) with | none => _ | some nxt => _ : State).rsp
  cases hn : next s.regs.cm (some st.ch) with
  | none => rfl
  | some nxt =>
    simp only [hn] at h ⊢
    rw [State.onBus_bus _ _ _ _ fun _ _ => rfl, State.onBus_bus _ _ _ _ fun _ _ => rfl] at h
    obtain ⟨e, -⟩ := Bus.startConv_gain s.params nxt _ _ b h
    change _ = (State.onBus _ _ (b.startConv s.params nxt _) _).rsp
    rw [← e]
    rcases b.startConv s.params nxt _ with ⟨u, b⟩ | ⟨t, k, b⟩ | ⟨t, p, b⟩
    · simp only [State.onBus, State.respond_rsp]
      rw [← pollResponse_gains s.regs gs gc]; rfl
    · rfl
    · rfl

theorem pollOp_gains (s : State) (gs gc : Nibw)
    (h : (pollOp s).bus.trace = (pollOp (s.withGains gs gc)).bus.trace) :
    (pollOp s).rsp = (pollOp (s.withGains gs gc)).rsp := by
  have ec : (s.withGains gs gc).regs.cm = s.regs.cm := rfl
  have er : (s.withGains gs gc).regs.ready = s.regs.ready := rfl
  unfold pollOp at h ⊢
  rw [ec, er] at h ⊢
  split_ifs at h ⊢ with h1 h2
  · rfl
  · rfl
  · unfold pollBus at h ⊢
    change _ = (State.onBus _ _ (s.bus.statusRead s.params) _).bus.trace at h
    change _ = (State.onBus _ _ (s.bus.statusRead s.params) _).rsp
    rcases hs : s.bus.statusRead s.params with ⟨st, b⟩ | ⟨t, k, b⟩ | ⟨t, p, b⟩
    · rw [hs] at h
      simp only [State.onBus] at h ⊢
      split_ifs at h ⊢ with hd
      · change _ = (State.onBus _ _ (b.resultRead s.params) _).bus.trace at h
        change _ = (State.onBus _ _ (b.resultRead s.params) _).rsp
        rcases hr : b.resultRead s.params with ⟨raw, b'⟩ | ⟨t, k, b'⟩ | ⟨t, p, b'⟩
        · rw [hr] at h; exact pollFinish_gains s gs gc st raw b' h
        · rfl
        · rfl
      · rfl
    · rfl
    · rfl

/-- R25: no instruction lets the host learn more of GS or GC than the bus shows. Two machines that differ in the gain
registers only, and whose buses show the same after the instruction, answer the same. -/
theorem response_gains (i : Instr) (s t t' : State) (gs gc : Nibw) (h : exec i s = .next t)
    (h' : exec i (s.withGains gs gc) = .next t') (hb : t.bus.trace = t'.bus.trace) : t.rsp = t'.rsp := by
  cases i <;> cases h <;> cases h'
  case start =>
    have ec : (s.withGains gs gc).regs.cm = s.regs.cm := rfl
    unfold startOp at hb ⊢
    rw [ec] at hb ⊢
    split_ifs at hb ⊢ with h1
    · rfl
    · cases hn : next s.regs.cm none with
      | none => rfl
      | some c => rw [hn] at hb; exact startAt_gains s gs gc c hb
  case poll => exact pollOp_gains s gs gc hb
  case statusRead =>
    change _ = (State.runBus _ (s.bus.statusRead s.params) _).rsp
    cases s.bus.statusRead s.params <;> rfl
  case resultRead =>
    change _ = (State.runBus _ (s.bus.resultRead s.params) _).rsp
    cases s.bus.resultRead s.params <;> rfl
  case startConv c g =>
    change _ = (State.runBus _ (s.bus.startConv s.params c g) _).rsp
    cases s.bus.startConv s.params c g <;> rfl
  all_goals rfl

/-- The ways an operation ends, with what each leaves of the machine (R74, R213, R269): the second index is the state
after it. -/
inductive Ends (s : State) : Instr → State → Prop where
  /-- CONFIGURE answers OK. -/
  | configured (cm am : Mask) (ceil : Nibw) :
    Ends s (.configure cm am ceil) (s.respond (configured cm am ceil) { status := .ok } s.bus)
  /-- PEEK, GAINSCALE and PRECISION answer OK and change no register. -/
  | answered (i : Instr) (r : Response) (hi : i = .peek ∨ i = .gainscale ∨ i = .precision) (hr : r.status = .ok) :
    Ends s i (s.respond s.regs r s.bus)
  /-- CONSUME clears `ready`. -/
  | consumed (r : Response) (hr : r.status = .ok) : Ends s .consume (s.respond { s.regs with ready := false } r s.bus)
  /-- The reserved code raises ILLEGAL_OP. -/
  | illegal : Ends s .reservedOp7 (s.raise .illegalOp s.bus)
  /-- START or POLL on an empty mask. -/
  | noChannel (i : Instr) (hi : i = .start ∨ i = .poll) (hc : s.regs.cm = 0#8) : Ends s i (s.raise .noChannelSelected s.bus)
  /-- START or POLL met by a bus error. -/
  | commError (i : Instr) (hi : i = .start ∨ i = .poll) (t : Txn) (k : FailKind) (b : Bus) :
    Ends s i (s.raise (.commError t k) b)
  /-- START has started a conversion. -/
  | started (c : Chan) (r : Response) (b : Bus) (hc : next s.regs.cm none = some c)
      (hb : s.bus.startConv s.params c (s.regs.gs c) = .done () b) (hr : r.status = .ok) :
    Ends s .start (s.respond { s.regs with armed := true } r b)
  /-- POLL answers BUSY or, under back-pressure, CHANNEL_READY, and changes no register. -/
  | heldOff (r : Response) (b : Bus) (hr : r.status = .busy ∨ r.status = .channelReady) (hc : s.regs.cm ≠ 0#8) :
    Ends s .poll (s.respond s.regs r b)
  /-- POLL completes a conversion and starts the next. -/
  | committed (st : StatusBits) (raw : Raw) (nxt : Chan) (b b' b'' : Bus) (hc : s.regs.cm ≠ 0#8)
      (hr : s.regs.ready = false) (h1 : s.bus.statusRead s.params = .done st b) (hd : st.devReady = true)
      (h2 : b.resultRead s.params = .done raw b') (hn : next s.regs.cm (some st.ch) = some nxt)
      (h3 : b'.startConv s.params nxt (nibRead (adjustedGsw s.regs st.ch raw) nxt) = .done () b'') :
    Ends s .poll (s.respond (pollCommit s.regs st raw) (pollResponse s.regs st raw) b'')
  /-- An operation with bus activity is stuck at a primitive that is never answered. -/
  | stuck (i : Instr) (hi : i = .start ∨ i = .poll ∨ i.isHostOp = false) (t : Txn) (p : BusPrim) (q : Bool) (b : Bus) :
    Ends s i (s.hang t p q b)
  /-- A bus operation run by itself hands back its result. -/
  | handedBack (i : Instr) (hi : i.isHostOp = false) (r : BusResult) (b : Bus) : Ends s i (s.handBack r b)

theorem startOp_ends (s : State) : Ends s .start (startOp s) := by
  rcases startOp_cases s with ⟨h, e⟩ | ⟨-, c, hc, e⟩ <;> rw [e]
  · exact .noChannel _ (.inl rfl) h
  · unfold startAt
    rcases h : s.bus.startConv s.params c (s.regs.gs c) with ⟨u, b⟩ | ⟨t, k, b⟩ | ⟨t, p, b⟩
    · exact .started c _ b hc h rfl
    · exact .commError _ (.inl rfl) t k b
    · exact .stuck _ (.inl rfl) t p false b

theorem pollOp_ends (s : State) : Ends s .poll (pollOp s) := by
  rcases pollOp_cases s with ⟨h, e⟩ | ⟨hc, -, e⟩ | ⟨hc, hr, ⟨t, k, b, -, e⟩ | ⟨t, p, b, -, e⟩ | ⟨st, b, -, -, e⟩ |
    ⟨st, b, h1, hd, ⟨t, k, b, -, e⟩ | ⟨t, p, b, -, e⟩ | ⟨raw, b', nxt, h2, hn, ⟨t, k, b, -, e⟩ | ⟨t, p, b, -, e⟩ |
      ⟨b'', h3, e⟩⟩⟩⟩ <;> rw [e]
  · exact .noChannel _ (.inr rfl) h
  · exact .heldOff _ _ (.inr rfl) hc
  · exact .commError _ (.inr rfl) t k b
  · exact .stuck _ (.inr (.inl rfl)) t p _ b
  · exact .heldOff _ _ (.inl rfl) hc
  · exact .commError _ (.inr rfl) t k b
  · exact .stuck _ (.inr (.inl rfl)) t p _ b
  · exact .commError _ (.inr rfl) t k b
  · exact .stuck _ (.inr (.inl rfl)) t p _ b
  · exact .committed st raw nxt b b' b'' hc hr h1 hd h2 hn h3

theorem runBus_ends {α : Type} (s : State) (i : Instr) (hi : i.isHostOp = false) (o : BusOut α) (f : α → BusResult) :
    Ends s i (s.runBus o f) := by
  rcases s.runBus_cases o f with ⟨r, e⟩ | ⟨t, p, e⟩ <;> rw [e]
  · exact .handedBack i hi r _
  · exact .stuck i (.inr (.inr hi)) t p _ _

/-- Every operation answers a next state, and it is one of `Ends`. -/
theorem exec_ends (i : Instr) (s : State) : ∃ t, exec i s = .next t ∧ Ends s i t := by
  cases i with
  | configure cm am ceil => exact ⟨_, rfl, .configured cm am ceil⟩
  | start => exact ⟨_, rfl, startOp_ends s⟩
  | poll => exact ⟨_, rfl, pollOp_ends s⟩
  | consume => exact ⟨_, rfl, .consumed _ rfl⟩
  | peek => exact ⟨_, rfl, .answered _ _ (.inl rfl) rfl⟩
  | gainscale => exact ⟨_, rfl, .answered _ _ (.inr (.inl rfl)) rfl⟩
  | precision => exact ⟨_, rfl, .answered _ _ (.inr (.inr rfl)) rfl⟩
  | reservedOp7 => exact ⟨_, rfl, .illegal⟩
  | statusRead => exact ⟨_, rfl, runBus_ends s _ rfl _ _⟩
  | resultRead => exact ⟨_, rfl, runBus_ends s _ rfl _ _⟩
  | startConv c g => exact ⟨_, rfl, runBus_ends s _ rfl _ _⟩

theorem ends_of_exec {i : Instr} {s t : State} (h : exec i s = .next t) : Ends s i t := by
  obtain ⟨t', h', e⟩ := exec_ends i s
  rw [h] at h'; cases h'; exact e

end Sys2Proof.Machine
end

