-- ==== Sys2Proof/Laws/Device.lean ====
section
/-!
SUPPORT. The device and the bus operations: what each leaves in the device's registers and in the trace (R64, R69, R71,
R190, R193; spec/93 G7).
-/

namespace Sys2Proof.Machine

/-- A conversion that ends touches neither the config register, nor the selector, nor the bytes under way. -/
@[simp] theorem Device.finish_config (d : Device) (w : Option Reg16) : (d.finish w).config = d.config := by
  cases w <;> simp only [Device.finish]
  split <;> rfl

@[simp] theorem Device.finish_inbox (d : Device) (w : Option Reg16) : (d.finish w).inbox = d.inbox := by
  cases w <;> simp only [Device.finish]
  split <;> rfl

@[simp] theorem Device.finish_selector (d : Device) (w : Option Reg16) : (d.finish w).selector = d.selector := by
  cases w <;> simp only [Device.finish]
  split <;> rfl

/-- A REG_READ that is answered ok selects its register and changes nothing else. -/
theorem Device.steps_readPrims (P : Params) (ptr : Byte) (d : Device) :
    d.steps P (readPrims P ptr) = { d with selector := ptr, inbox := [] } := by
  simp [Device.steps, readPrims, Device.step, Device.accept]

/-- A START_CONV that is answered ok stores channel and gain in the config register, and the device converts. -/
theorem Device.steps_startPrims (P : Params) (c : Chan) (g : Code) (d : Device) :
    d.steps P (startPrims P c g) =
      { d with
        selector := P.ptrConfig, inbox := [], config := (configMsb P c g).extractLsb' 0 7 ++ P.cfgLsb, done := false } := by
  have hb : (configMsb P c g)[7] = true := by
    rw [← BitVec.getLsbD_eq_getElem, configMsb]; simp only [BitVec.getLsbD_append]; simp
  simp [Device.steps, startPrims, Device.step, Device.accept, hb]

/-- Whatever the environment does, REG_READ puts its four primitives on the bus, or a beginning of them. -/
theorem Bus.regRead_trace (P : Params) (t : Txn) (ptr : Byte) (b : Bus) :
    match b.regRead P t ptr with
    | .done _ b' => b'.trace = b.trace ++ readPrims P ptr
    | .failed _ _ b' => ∃ k, k ≤ 4 ∧ b'.trace = b.trace ++ (readPrims P ptr).take k
    | .stuck _ _ b' => ∃ k, k ≤ 4 ∧ b'.trace = b.trace ++ (readPrims P ptr).take k := by
  have h := Bus.calls_trace P t (readPrims P ptr) 0#16 b
  unfold Bus.regRead
  revert h
  cases Bus.calls P t (readPrims P ptr) 0#16 b with
  | done => exact id
  | failed => exact fun h => h.2
  | stuck => exact fun h => h.2

/-- Whatever the environment does, START_CONV puts its five primitives on the bus, or a beginning of them. -/
theorem Bus.startConv_trace (P : Params) (c : Chan) (g : Code) (b : Bus) :
    match b.startConv P c g with
    | .done _ b' => b'.trace = b.trace ++ startPrims P c g
    | .failed _ _ b' => ∃ k, k ≤ 5 ∧ b'.trace = b.trace ++ (startPrims P c g).take k
    | .stuck _ _ b' => ∃ k, k ≤ 5 ∧ b'.trace = b.trace ++ (startPrims P c g).take k := by
  have h := Bus.calls_trace P .startConv (startPrims P c g) 0#16 b
  unfold Bus.startConv
  revert h
  cases Bus.calls P .startConv (startPrims P c g) 0#16 b with
  | done => exact id
  | failed => exact fun h => h.2
  | stuck => exact fun h => h.2

end Sys2Proof.Machine
end

