-- ==== Sys2Proof/Laws/PerInstr.lean ====
section
/-!
SUPPORT. Per instruction: the word the encoder gives has the fixed bits of the instruction's row in
spec/opcode_table.json (R91, R92, R106, R107).
-/

namespace Sys2Proof.Laws.TableRow

/-- The fixed bits [50:48] of a CMD row, from its mask and match; none for a FRAME row. -/
def rowOp : Instr → Option (BitVec 3)
  | .configure _ _ _ => some 0b000#3
  | .start => some 0b001#3
  | .poll => some 0b010#3
  | .consume => some 0b011#3
  | .peek => some 0b100#3
  | .gainscale => some 0b101#3
  | .precision => some 0b110#3
  | .reservedOp7 => some 0b111#3
  | .statusRead => none
  | .resultRead => none
  | .startConv _ _ => none

/-- Byte 0 of a FRAME row (its field p) and its bit 15 (fixed at 1 for START_CONV; received, so 0 in a request, for the
reads); none for a CMD row. -/
def rowFrame (P : Params) : Instr → Option (Byte × Bool)
  | .configure _ _ _ => none
  | .start => none
  | .poll => none
  | .consume => none
  | .peek => none
  | .gainscale => none
  | .precision => none
  | .reservedOp7 => none
  | .statusRead => some (P.ptrConfig, false)
  | .resultRead => some (P.ptrResult, false)
  | .startConv _ _ => some (P.ptrConfig, true)

/-- The encoder's word is of the row's format and has the row's fixed bits, under every parameter value. -/
def Statement (i : Instr) : Prop :=
  ∀ P : Params,
    match encode P i with
    | .cmd w => rowOp i = some (w.extractLsb' 48 3) ∧ rowFrame P i = none
    | .frame w => rowFrame P i = some (w.extractLsb' 16 8, w.getLsbD 15) ∧ rowOp i = none

theorem cmdWord_op (op : BitVec 3) (cm am : Mask) (ceil : Nibw) : (cmdWord op cm am ceil).extractLsb' 48 3 = op := by
  apply BitVec.eq_of_getLsbD_eq
  intro i hi
  simp only [cmdWord, BitVec.getLsbD_extractLsb', BitVec.getLsbD_append]
  interval_cases i <;> simp

theorem readFrame_bits (ptr : Byte) :
    (ptr ++ 0#16).extractLsb' 16 8 = ptr ∧ (ptr ++ 0#16).getLsbD 15 = false := by
  constructor
  · apply BitVec.eq_of_getLsbD_eq
    intro i hi
    simp only [BitVec.getLsbD_extractLsb', BitVec.getLsbD_append]
    interval_cases i <;> simp
  · simp only [BitVec.getLsbD_append]; simp

theorem startFrame_bits (P : Params) (c : Chan) (g : Code) :
    (P.ptrConfig ++ configMsb P c g ++ P.cfgLsb).extractLsb' 16 8 = P.ptrConfig ∧
    (P.ptrConfig ++ configMsb P c g ++ P.cfgLsb).getLsbD 15 = true := by
  constructor
  · apply BitVec.eq_of_getLsbD_eq
    intro i hi
    simp only [BitVec.getLsbD_extractLsb', BitVec.getLsbD_append]
    interval_cases i <;> simp
  · simp only [configMsb, BitVec.getLsbD_append]; simp

theorem configure (cm am : Mask) (ceil : Nibw) : Statement (.configure cm am ceil) :=
  fun _ => ⟨congrArg some (cmdWord_op 0 cm am ceil).symm, rfl⟩

theorem start : Statement .start := fun _ => ⟨congrArg some (cmdWord_op 1 0 0 0).symm, rfl⟩

theorem poll : Statement .poll := fun _ => ⟨congrArg some (cmdWord_op 2 0 0 0).symm, rfl⟩

theorem consume : Statement .consume := fun _ => ⟨congrArg some (cmdWord_op 3 0 0 0).symm, rfl⟩

theorem peek : Statement .peek := fun _ => ⟨congrArg some (cmdWord_op 4 0 0 0).symm, rfl⟩

theorem gainscale : Statement .gainscale := fun _ => ⟨congrArg some (cmdWord_op 5 0 0 0).symm, rfl⟩

theorem precision : Statement .precision := fun _ => ⟨congrArg some (cmdWord_op 6 0 0 0).symm, rfl⟩

theorem reservedOp7 : Statement .reservedOp7 := fun _ => ⟨congrArg some (cmdWord_op 7 0 0 0).symm, rfl⟩

theorem statusRead : Statement .statusRead := by
  intro P
  exact ⟨congrArg some (Prod.ext (readFrame_bits _).1.symm (readFrame_bits _).2.symm), rfl⟩

theorem resultRead : Statement .resultRead := by
  intro P
  exact ⟨congrArg some (Prod.ext (readFrame_bits _).1.symm (readFrame_bits _).2.symm), rfl⟩

theorem startConv (c : Chan) (g : Code) : Statement (.startConv c g) := by
  intro P
  exact ⟨congrArg some (Prod.ext (startFrame_bits P c g).1.symm (startFrame_bits P c g).2.symm), rfl⟩

end Sys2Proof.Laws.TableRow
end

