-- ==== Sys2Proof/Tests/Slice0.lean ====
section
/-!
SUPPORT. Tests, with expected results from spec/95_test_vectors.md and the numbered rules, and for every obligation with
hypotheses a witness: concrete data that meet all of them together.
-/

namespace Sys2Proof.Tests

open Machine

/-! ### Helpers -/

/-- The registers S0 of spec/95 L2-F: after CONFIGURE cm=0x0F am=0x05 ceil=0x00007352 and START. -/
def regsS0 : Regs :=
  { cm := 0x0F#8, am := 0x05#8, gcw := 0x00005352#32, gsw := 0x00005050#32, ready := false, armed := true
    cache := { ch := 0#3, vq := 0#17, gain := 0#3 } }

/-- The registers after vector F2: channel 0 at code 2, its value waiting. -/
def regsF2 : Regs :=
  { regsS0 with gsw := 0x00005052#32, ready := true, cache := { ch := 0#3, vq := 2400#17, gain := 0#3 } }

/-- A machine with these registers and replies to come. -/
def machine (r : Regs) (script : List BusReply) : State :=
  { State.reset with regs := r, bus := { State.reset.bus with script := script } }

/-- The data of a POLL's thirteen primitives: the status bytes fourth, the result bytes eighth. -/
def pollData (st raw : Reg16) : List Reg16 :=
  [0#16, 0#16, 0#16, st, 0#16, 0#16, 0#16, raw, 0#16, 0#16, 0#16, 0#16, 0#16]

/-- The state an operation leaves. -/
def after (i : Instr) (s : State) : State :=
  match exec i s with
  | .next t => t
  | .fault _ => s
  | .refused _ => s

/-- The state a step leaves. -/
def stepped (s : State) : State :=
  match step s with
  | .next t => t
  | .fault _ => s
  | .refused _ => s

/-! ### Well-formedness: every check refuses an ill-formed term -/

/-- Two registers behind one selector. -/
def oneSelector : Params := { Params.default with ptrResult := 0x01#8 }

theorem test_params_ill_formed : oneSelector.wellFormed = false := by decide

theorem test_params_well_formed : Params.default.wellFormed = true := by decide

theorem test_status_read_ill_formed : Instr.statusRead.wellFormed oneSelector = false := by decide

theorem test_result_read_ill_formed : Instr.resultRead.wellFormed oneSelector = false := by decide

theorem test_start_conv_ill_formed : (Instr.startConv 3#3 5#3).wellFormed oneSelector = false := by decide

/-! ### Decoding: words of spec/95 L2-E and L2-F, and R92, R106 -/

theorem test_decode_configure :
    decodeCmd 0x00F0500007352#51 = .configure 0x0F#8 0x05#8 0x00007352#32 := by decide

theorem test_decode_start : decodeCmd 0x1000000000000#51 = .start := by decide

theorem test_decode_poll_stray_bits : decodeCmd 0x2ABCDEF012345#51 = .poll := by decide

theorem test_decode_consume : decodeCmd 0x3000000000000#51 = .consume := by decide

theorem test_decode_peek : decodeCmd 0x4000000000000#51 = .peek := by decide

theorem test_decode_gainscale : decodeCmd 0x5000000000000#51 = .gainscale := by decide

theorem test_decode_precision : decodeCmd 0x6000000000000#51 = .precision := by decide

theorem test_decode_reserved : decodeCmd 0x7FFFFFFFFFFFF#51 = .reservedOp7 := by decide

theorem test_decode_status_read : decodeTableWord 24 0x010000 = some .statusRead := by decide

theorem test_decode_result_read : decodeTableWord 24 0x000000 = some .resultRead := by decide

/-- START_CONV(3, 5) is 01 BB 83. -/
theorem test_decode_start_conv : decodeTableWord 24 0x01BB83 = some (.startConv 3#3 5#3) := by decide

/-- A CMD word in whole bytes. -/
theorem test_decode_56_bits : decodeTableWord 56 0x4000000000000 = some .peek := by decide

/-- Bits above 50 do not exist. -/
theorem test_decode_beyond_51_bits : decodeTableWord 56 0x8000000000000 = none := by decide

/-- No register has selector 0x55 (R64, R195). -/
theorem test_decode_no_such_selector :
    decodeFrame Params.default 0x550000#24 = .error .noSuchSelector := by rfl

/-! ### Operand functions at their corners (spec/95 L2-A to L2-E) -/

theorem test_convert_extremes :
    convert (BitVec.ofInt 12 (-2048)) 0#3 = 0x14000#17 ∧ convert 2047#12 0#3 = 0x0BFE8#17 ∧
    convert (BitVec.ofInt 12 (-2048)) 7#3 = 0x1F800#17 := by decide

theorem test_ceiling_normalised : initGcw 0xEEEEEEEE#32 = 0x55555555#32 ∧ initGcw 0x88888888#32 = 0#32 := by decide

theorem test_next_wraps_and_skips :
    next 0x25#8 (some 5#3) = some 0#3 ∧ next 0x25#8 (some 3#3) = some 5#3 ∧ next 0x80#8 (some 7#3) = some 7#3 := by decide

/-! ### One or two tests per instruction -/

/-- P2 step 1: nibble 7 stored as 5, the fixed channel starts at its ceiling. -/
theorem test_configure :
    (after (.configure 0x0A#8 0x02#8 0x00007030#32) State.reset).regs =
      { Regs.zero with cm := 0x0A#8, am := 0x02#8, gcw := 0x00005030#32, gsw := 0x00005000#32 } := by decide

/-- F11: the bytes of START, and that `armed` stays 1. -/
theorem test_start :
    (after .start (machine regsS0 (List.replicate 5 (.ok 0#16)))).bus.trace =
      [.beginTxn 0x48#7, .writeByte 0x01#8, .writeByte 0x81#8, .writeByte 0x83#8, .endTxn] ∧
    (after .start (machine regsS0 (List.replicate 5 (.ok 0#16)))).regs = regsS0 := by decide

/-- spec/95 L2-G: START_CONV failing at END; and R93: where `ready` is 1 before and after, v (bit 28) is 1 too. -/
theorem test_start_fails_at_end :
    (after .start (machine regsS0 [.ok 0#16, .ok 0#16, .ok 0#16, .ok 0#16, .err true])).rsp = some 0x602C0000#32 ∧
    (after .start (machine regsS0 [.ok 0#16, .ok 0#16, .ok 0#16, .ok 0#16, .err true])).regs = regsS0 ∧
    (after .start (machine regsF2 [.ok 0#16, .ok 0#16, .ok 0#16, .ok 0#16, .err true])).rsp = some 0x702C0000#32 := by
  decide

/-- F2: the search reaches 4, the clamp gives 2; the next channel's byte is 0x9B. -/
theorem test_poll_surfaces :
    (after .poll (machine regsS0 ((pollData 0x8183#16 0x0640#16).map .ok))).regs = regsF2 ∧
    (after .poll (machine regsS0 ((pollData 0x8183#16 0x0640#16).map .ok))).rsp = some 0x50000000#32 ∧
    (after .poll (machine regsS0 ((pollData 0x8183#16 0x0640#16).map .ok))).bus.trace.drop 8 =
      [.beginTxn 0x48#7, .writeByte 0x01#8, .writeByte 0x9B#8, .writeByte 0x83#8, .endTxn] := by decide

/-- F8: overflow on an auto channel answers BUSY and surfaces nothing. -/
theorem test_poll_overflow :
    (after .poll (machine regsS0 ((pollData 0x8183#16 0x7FD0#16).map .ok))).regs = regsS0 ∧
    (after .poll (machine regsS0 ((pollData 0x8183#16 0x7FD0#16).map .ok))).rsp = some 0x20000000#32 := by decide

/-- F4. -/
theorem test_consume :
    (after .consume (machine regsF2 [])).rsp = some 0x10000960#32 ∧
    (after .consume (machine regsF2 [])).regs = { regsF2 with ready := false } := by decide

/-- F5: once more, v is 0 and the value stays. -/
theorem test_consume_again :
    (after .consume (machine { regsF2 with ready := false } [])).rsp = some 0x00000960#32 := by decide

/-- P2 step 6: a negative value. -/
theorem test_peek :
    (after .peek (machine { regsF2 with cache := { ch := 3#3, vq := BitVec.ofInt 17 (-2048), gain := 5#3 } } [])).rsp =
      some 0x1741F800#32 := by decide

/-- P1 step 12. -/
theorem test_gainscale :
    (after .gainscale (machine { regsF2 with cache := { ch := 0#3, vq := 2400#17, gain := 4#3 } } [])).rsp =
      some 0x11000002#32 := by decide

/-- P1 step 13. -/
theorem test_precision :
    (after .precision (machine { regsF2 with cache := { ch := 0#3, vq := 2400#17, gain := 4#3 } } [])).rsp =
      some 0x11000005#32 := by decide

/-- F10. -/
theorem test_reserved :
    (after .reservedOp7 (machine regsS0 [])).rsp = some 0xE0000000#32 ∧
    (after .reservedOp7 (machine regsS0 [])).regs = regsS0 := by decide

/-- spec/95 L2-E: byte BA is ready, channel 3, gain 5, its bit 0 and the second byte ignored. -/
theorem test_status_read :
    (after .statusRead (machine regsS0 [.ok 0#16, .ok 0#16, .ok 0#16, .ok 0xBA00#16])).busResult =
      some (.status { devReady := true, ch := 3#3, gain := 5#3 }) := by decide

/-- spec/95 L2-E: bytes 7F DF are 2045, the selector sent is 00. -/
theorem test_result_read :
    (after .resultRead (machine regsS0 [.ok 0#16, .ok 0#16, .ok 0#16, .ok 0x7FDF#16])).busResult =
      some (.sample 2045#12) ∧
    (after .resultRead (machine regsS0 [.ok 0#16, .ok 0#16, .ok 0#16, .ok 0x7FDF#16])).bus.trace =
      [.beginTxn 0x48#7, .writeByte 0x00#8, .endTxn, .readBytes 2] := by decide

/-- spec/95 L2-E: START_CONV(3, 5) sends 01 BB 83. -/
theorem test_start_conv :
    (after (.startConv 3#3 5#3) (machine regsS0 (List.replicate 5 (.ok 0#16)))).bus.trace =
      [.beginTxn 0x48#7, .writeByte 0x01#8, .writeByte 0xBB#8, .writeByte 0x83#8, .endTxn] := by decide

/-- The device answers a STATUS_READ from its own config register, here channel 4, gain 4, ready. -/
theorem test_status_read_device :
    (after .statusRead
      { machine regsS0 (List.replicate 4 (.device none)) with
        bus := { script := List.replicate 4 (.device none), drawn := 0, trace := []
                 dev := { Device.powerOn with config := 0x4983#15 } } }).busResult =
      some (.status { devReady := true, ch := 4#3, gain := 4#3 }) := by decide

/-! ### Steps -/

/-- A word of the table is the first thing a step runs (here CONSUME, which answers at reset with zeros, R292). -/
theorem test_step_runs_table_word :
    (stepped (State.reset.withFetchWord 51 0x3000000000000)).rsp = some 0x00000000#32 := by decide

theorem test_step_refuses_unknown_selector :
    step (State.reset.withFetchWord 24 0x550000) = .refused .noSuchFrame := by rfl

/-! ### Witnesses -/

theorem witness_round_trip : (Instr.startConv 7#3 7#3).wellFormed Params.default = true := by decide

/-- Both ends of both bands, on an auto channel. -/
theorem witness_decrease_and_overflow :
    maskBit regsS0.am 0#3 = true ∧ (1946#12).toInt.natAbs = 1946 ∧ (2044#12).toInt.natAbs = 2044 ∧
    (2045#12).toInt.natAbs = 2045 ∧ (BitVec.ofInt 12 (-2048)).toInt.natAbs = 2048 := by decide

theorem witness_increase :
    maskBit regsS0.am 0#3 = true ∧ (0#12).toInt.natAbs < 1024 ∧ (1023#12).toInt.natAbs < 1024 := by decide

theorem witness_adjust_properties :
    (1024 ≤ (1024#12).toInt.natAbs ∧ (1945#12).toInt.natAbs ≤ 1945) ∧
    (maskBit regsS0.am 0#3 = true ∧ 2#3 ≤ regsS0.gc 0#3) ∧ maskBit regsS0.am 1#3 = false ∧
    (BitVec.ofInt 12 (-5)).toInt.natAbs = (5#12).toInt.natAbs := by decide

theorem witness_next_corner_cases :
    (∀ n : Chan, maskBit 0x80#8 n = true ↔ n = 7#3) ∧ (0x25#8 ≠ 0#8) ∧ next 0x25#8 none = some 0#3 := by decide

theorem witness_next_cycles : (0x25#8 : Mask) ≠ 0#8 := by decide

theorem witness_nibble_laws : nibTop 0x00004321#32 2#3 = false ∧ (1#3 : Chan) ≠ 2#3 := by decide

theorem witness_reset_input : ({ State.reset with inputs := [.rst] } : State).inputs = .rst :: [] := rfl

theorem witness_empty_mask : State.reset.regs.cm = 0#8 := rfl

theorem witness_start_completes :
    regsS0.cm ≠ 0#8 ∧ next regsS0.cm none = some 0#3 ∧
    (machine regsS0 ((List.replicate 5 0#16).map .ok)).bus.script = (List.replicate 5 0#16).map .ok ++ [] ∧
    (List.replicate 5 0#16).length = 5 := by decide

/-- Both failures of START. -/
theorem witness_start_fails :
    regsS0.cm ≠ 0#8 ∧ next regsS0.cm none = some 0#3 ∧
    (machine regsS0 [.err false]).bus.script = ([] : List Reg16).map .ok ++ .err false :: [] ∧
    (machine regsS0 [.ok 0#16, .ok 0#16, .ok 0#16, .ok 0#16, .err true]).bus.script =
      [0#16, 0#16, 0#16, 0#16].map .ok ++ .err true :: [] := by decide

theorem witness_back_pressure : regsF2.cm ≠ 0#8 ∧ regsF2.ready = true := by decide

theorem witness_busy :
    regsS0.cm ≠ 0#8 ∧ regsS0.ready = false ∧ (statusOf ([0#16, 0#16, 0#16, 0x0183#16].getD 3 0#16)).devReady = false ∧
    (machine regsS0 ([0#16, 0#16, 0#16, 0x0183#16].map .ok)).bus.script =
      [0#16, 0#16, 0#16, 0x0183#16].map .ok ++ [] := by decide

/-- A valid sample: an auto channel at 2044, and a fixed channel at -2048. -/
theorem witness_valid_sample :
    regsS0.cm ≠ 0#8 ∧ regsS0.ready = false ∧ (pollData 0x8183#16 0x7FC0#16).length = 13 ∧
    (machine regsS0 ((pollData 0x8183#16 0x7FC0#16).map .ok)).bus.script = (pollData 0x8183#16 0x7FC0#16).map .ok ++ [] ∧
    (statusOf ((pollData 0x8183#16 0x7FC0#16).getD 3 0#16)).devReady = true ∧
    next regsS0.cm (some (statusOf 0x8183#16).ch) = some 1#3 ∧
    (rawOf ((pollData 0x8183#16 0x7FC0#16).getD 7 0#16)).toInt.natAbs < 2045 ∧
    maskBit regsS0.am (statusOf 0x9B83#16).ch = false ∧ (statusOf 0x9B83#16).devReady = true ∧
    next regsS0.cm (some (statusOf 0x9B83#16).ch) = some 2#3 := by decide

/-- An overflow: an auto channel at 2045. -/
theorem witness_overflow :
    regsS0.cm ≠ 0#8 ∧ regsS0.ready = false ∧ (pollData 0x8183#16 0x7FD0#16).length = 13 ∧
    (machine regsS0 ((pollData 0x8183#16 0x7FD0#16).map .ok)).bus.script = (pollData 0x8183#16 0x7FD0#16).map .ok ++ [] ∧
    (statusOf ((pollData 0x8183#16 0x7FD0#16).getD 3 0#16)).devReady = true ∧
    next regsS0.cm (some (statusOf 0x8183#16).ch) = some 1#3 ∧
    maskBit regsS0.am (statusOf 0x8183#16).ch = true ∧
    2045 ≤ (rawOf ((pollData 0x8183#16 0x7FD0#16).getD 7 0#16)).toInt.natAbs := by decide

/-- Failures of a POLL in each of its three bus operations: at the first, the eighth and the last primitive. -/
theorem witness_first_error :
    regsS0.cm ≠ 0#8 ∧ regsS0.ready = false ∧ pollFailure 0 = some (.statusRead, .onBegin) ∧
    pollFailure ((pollData 0x8183#16 0x0640#16).take 7).length = some (.resultRead, .onCount) ∧
    pollFailure ((pollData 0x8183#16 0x0640#16).take 12).length = some (.startConv, .onEnd) ∧
    (machine regsS0 (((pollData 0x8183#16 0x0640#16).take 12).map .ok ++ [.err true])).bus.script =
      ((pollData 0x8183#16 0x0640#16).take 12).map .ok ++ .err true :: [] ∧
    (statusOf (((pollData 0x8183#16 0x0640#16).take 12).getD 3 0#16)).devReady = true ∧
    (statusOf (((pollData 0x8183#16 0x0640#16).take 7).getD 3 0#16)).devReady = true ∧
    next regsS0.cm (some (statusOf 0x8183#16).ch) = some 1#3 ∧
    next regsS0.cm (some (statusOf (([] : List Reg16).getD 3 0#16)).ch) = some 1#3 := by decide

theorem witness_read_results :
    (machine regsS0 [.ok 0#16, .ok 0#16, .ok 0#16, .ok 0xBA83#16]).bus.script =
      .ok 0#16 :: .ok 0#16 :: .ok 0#16 :: .ok (0xBA#8 ++ 0x83#8) :: [] := by decide

theorem witness_start_conv_result :
    (machine regsS0 ((List.replicate 5 0#16).map .ok)).bus.script = (List.replicate 5 0#16).map .ok ++ [] ∧
    (List.replicate 5 0#16).length = 5 := by decide

/-- A failure at the begin, the end and the count of a read; at the begin and the end of START_CONV; a WRITE. -/
theorem witness_bus_operation_failures :
    (machine regsS0 (([] : List Reg16).map .ok ++ [.err false])).bus.script =
      ([] : List Reg16).map .ok ++ .err false :: [] ∧
    (machine regsS0 ([0#16, 0#16].map .ok ++ [.err false])).bus.script = [0#16, 0#16].map .ok ++ .err false :: [] ∧
    (machine regsS0 ([0#16, 0#16, 0#16].map .ok ++ [.err false])).bus.script =
      [0#16, 0#16, 0#16].map .ok ++ .err false :: [] ∧
    (machine regsS0 ([0#16, 0#16, 0#16, 0#16].map .ok ++ [.err true])).bus.script =
      [0#16, 0#16, 0#16, 0#16].map .ok ++ .err true :: [] := by decide

/-- F6: COMM_ERROR is an exception word. -/
theorem witness_exceptions :
    exec .poll (machine regsS0 [.err false]) = .next (after .poll (machine regsS0 [.err false])) ∧
    Instr.poll.isHostOp = true ∧ (after .poll (machine regsS0 [.err false])).rsp = some 0x60140000#32 ∧
    isExceptionWord 0x60140000#32 :=
  ⟨rfl, by decide, by decide, .inl (by decide)⟩

/-- An operation other than CONFIGURE that answers; this one writes a gain register, sets `ready` and fills the cache. -/
theorem witness_poll_commits :
    exec .poll (machine regsS0 ((pollData 0x8183#16 0x0640#16).map .ok)) =
      .next (after .poll (machine regsS0 ((pollData 0x8183#16 0x0640#16).map .ok))) ∧
    (∀ cm am ceil, Instr.poll ≠ .configure cm am ceil) ∧ regsS0.ready = false ∧
    (after .poll (machine regsS0 ((pollData 0x8183#16 0x0640#16).map .ok))).regs.ready = true ∧
    (after .poll (machine regsS0 ((pollData 0x8183#16 0x0640#16).map .ok))).regs.cache ≠ regsS0.cache :=
  ⟨rfl, by simp, rfl, by decide, by decide⟩

/-- `ready` cleared. -/
theorem witness_ready_cleared :
    exec .consume (machine regsF2 []) = .next (after .consume (machine regsF2 [])) ∧ regsF2.ready = true ∧
    (after .consume (machine regsF2 [])).regs.ready = false :=
  ⟨rfl, rfl, by decide⟩

/-- `armed` set by START. -/
theorem witness_armed_set :
    exec .start (machine { regsS0 with armed := false } (List.replicate 5 (.ok 0#16))) =
      .next (after .start (machine { regsS0 with armed := false } (List.replicate 5 (.ok 0#16)))) ∧
    (after .start (machine { regsS0 with armed := false } (List.replicate 5 (.ok 0#16)))).regs.armed = true :=
  ⟨rfl, by decide⟩

/-- `armed` cleared by CONFIGURE. -/
theorem witness_armed_cleared :
    exec (.configure 0#8 0#8 0#32) (machine regsS0 []) = .next (after (.configure 0#8 0#8 0#32) (machine regsS0 [])) ∧
    regsS0.armed = true ∧ (after (.configure 0#8 0#8 0#32) (machine regsS0 [])).regs.armed = false :=
  ⟨rfl, rfl, rfl⟩

/-- An unconsumed value, and an operation that is neither CONFIGURE, START nor POLL. -/
theorem witness_peek :
    exec .peek (machine regsF2 []) = .next (after .peek (machine regsF2 [])) ∧ regsF2.ready = true ∧
    Instr.peek.isHostOp = true ∧ Instr.peek ≠ .start ∧ Instr.peek ≠ .poll ∧
    (∀ cm am ceil, Instr.peek ≠ .configure cm am ceil) :=
  ⟨rfl, rfl, rfl, by decide, by decide, by simp⟩

/-- START and POLL from S0, which has the register invariant. -/
theorem witness_starts_under_ceiling :
    RegsInv regsS0 ∧
    exec .start (machine regsS0 (List.replicate 5 (.ok 0#16))) =
      .next (after .start (machine regsS0 (List.replicate 5 (.ok 0#16)))) ∧
    exec .poll (machine regsS0 ((pollData 0x8183#16 0x0640#16).map .ok)) =
      .next (after .poll (machine regsS0 ((pollData 0x8183#16 0x0640#16).map .ok))) :=
  ⟨by decide, rfl, rfl⟩

theorem witness_host_operation : Instr.poll.isHostOp = true ∧ State.reset.inFlight = none := by decide

/-- Unanswered at the first primitive; at the fourth and the fifth, where fsm changes; and at the last. -/
theorem witness_unanswered :
    regsS0.cm ≠ 0#8 ∧ regsS0.ready = false ∧
    (machine regsS0 [.never false]).bus.script = ([] : List Reg16).map .ok ++ .never false :: [] ∧
    next regsS0.cm (some (statusOf (([] : List Reg16).getD 3 0#16)).ch) = some 1#3 ∧
    (pollPrims Params.default 1#3 5#3)[0]? = some (.beginTxn 0x48#7) ∧
    (machine regsS0 (((pollData 0x8183#16 0x0640#16).take 3).map .ok ++ [.never true])).bus.script =
      ((pollData 0x8183#16 0x0640#16).take 3).map .ok ++ .never true :: [] ∧
    next regsS0.cm (some (statusOf (((pollData 0x8183#16 0x0640#16).take 3).getD 3 0#16)).ch) = some 1#3 ∧
    (pollPrims Params.default 1#3 5#3)[((pollData 0x8183#16 0x0640#16).take 3).length]? = some (.readBytes 2) ∧
    (machine regsS0 (((pollData 0x8183#16 0x0640#16).take 4).map .ok ++ [.never true])).bus.script =
      ((pollData 0x8183#16 0x0640#16).take 4).map .ok ++ .never true :: [] ∧
    (statusOf (((pollData 0x8183#16 0x0640#16).take 4).getD 3 0#16)).devReady = true ∧
    (pollPrims Params.default 1#3 5#3)[((pollData 0x8183#16 0x0640#16).take 4).length]? = some (.beginTxn 0x48#7) ∧
    nibRead (nibWrite regsS0.gsw 0#3 (adjust regsS0 0#3 (regsS0.gs 0#3) 0#12).1) 1#3 = 5#3 ∧
    (machine regsS0 (((pollData 0x8183#16 0x0640#16).take 12).map .ok ++ [.never true])).bus.script =
      ((pollData 0x8183#16 0x0640#16).take 12).map .ok ++ .never true :: [] ∧
    (statusOf (((pollData 0x8183#16 0x0640#16).take 12).getD 3 0#16)).devReady = true ∧
    next regsS0.cm (some (statusOf 0x8183#16).ch) = some 1#3 ∧
    nibRead (nibWrite regsS0.gsw 0#3 (adjust regsS0 0#3 (regsS0.gs 0#3) 100#12).1) 1#3 = 5#3 ∧
    (pollPrims Params.default 1#3 5#3)[((pollData 0x8183#16 0x0640#16).take 12).length]? = some .endTxn := by decide

/-- A machine stuck at a START's first primitive. -/
def stuckMachine : State := after .start (machine regsS0 [.never false])

theorem witness_stuck :
    stuckMachine.inFlight = some { txn := .startConv, prim := .beginTxn 0x48#7, resultPending := false } ∧
    stuckMachine.inputs.head? ≠ some .rst := by decide

/-- The three names. -/
theorem witness_fsm :
    (State.reset.inFlight = none ∧ State.reset.regs.ready = false ∧ State.reset.regs.armed = false) ∧
    ((machine regsS0 []).inFlight = none ∧ regsS0.ready = false ∧ regsS0.armed = true) ∧
    ((machine regsF2 []).inFlight = none ∧ regsF2.ready = true ∧ regsF2.armed = true) := by decide

/-- A state whose next input is CONFIGURE 0x0F, 0x05, 0x00007352. -/
def presented : State := State.reset.withFetchWord 51 0x00F0500007352

theorem witness_step_runs :
    presented.inputs = [.word (.cmd 0x00F0500007352#51)] ∧ presented.inFlight = none ∧
    decode presented.params (.cmd 0x00F0500007352#51) = .ok (.configure 0x0F#8 0x05#8 0x00007352#32) :=
  ⟨by decide, by decide, by rfl⟩

theorem witness_idle : State.reset.inputs = [] := rfl

/-- A step with a next state, from a state that has the register invariant. -/
theorem witness_step :
    RegsInv presented.regs ∧ step presented = .next (stepped presented) ∧ (stepped presented).regs.cm = 0x0F#8 :=
  ⟨by decide, rfl, by decide⟩

theorem witness_run :
    Host.Core.run core 1
      { State.reset with
        params := Params.default, bus := State.reset.bus, inputs := [.word (.cmd 0x00F0500007352#51)] } =
      .next (stepped presented) := rfl

/-- S0 with the device holding channel 0 at gain 0, the conversion done with result 100, answering for itself. -/
def faithful : State :=
  { machine regsS0 [] with
    bus := { script := List.replicate 13 (.device none), drawn := 0, trace := []
             dev := { selector := 0x01#8, config := 0x0183#15, done := true, result := 0x0640#16, inbox := [] } } }

theorem witness_echo :
    EchoInv faithful ∧ 13 ≤ faithful.bus.script.length ∧ (∀ r ∈ faithful.bus.script, r.notHalf = true) ∧
    exec .poll faithful = .next (after .poll faithful) ∧ Instr.poll.isHostOp = true :=
  ⟨by decide, by decide, by decide, rfl, rfl⟩

theorem witness_faithful :
    EchoInv faithful ∧ faithful.regs.armed = true ∧ faithful.regs.ready = false ∧ 13 ≤ faithful.bus.script.length ∧
    (∀ r ∈ faithful.bus.script, r.isDevice = true) ∧ exec .poll faithful = .next (after .poll faithful) ∧
    (after .poll faithful).regs.ready = true :=
  ⟨by decide, rfl, rfl, by decide, by decide, rfl, by decide⟩

end Sys2Proof.Tests
end

/-!
PROOFS. The machine right after reset (spec/10_state.md, section 9). What POLL and START answer on an empty channel mask
is stated for every state; reset is the case of it whose registers are all zero.
-/

namespace Sys2Proof.Machine

/-- R42: `ready` and `armed` are both 0, and nothing is in flight. -/
@[simp] theorem State.reset_fsmOut : State.reset.fsmOut = 0b00#2 := rfl

/-- R214 for START. -/
theorem exec_start_of_cm_zero {s : State} (h : s.regs.cm = 0#8) :
    exec .start s = .next (s.raise .noChannelSelected s.bus) := by
  rw [exec, execStart, startOp, if_pos h]

/-- R214 for POLL: the empty mask is tested before `ready`. -/
theorem exec_poll_of_cm_zero {s : State} (h : s.regs.cm = 0#8) :
    exec .poll s = .next (s.raise .noChannelSelected s.bus) := by
  rw [exec, execPoll, pollOp, if_pos h]

/-- R93, R262: the response is the status code alone, in the top four bits, where `ready` is 0. -/
theorem State.raise_noChannelSelected_rsp {s : State} (h : s.regs.ready = false) (b : Bus) :
    (s.raise .noChannelSelected b).rsp = some 0x80000000#32 := by
  rw [State.raise_rsp, h]
  rfl

/-- Settles O16: the registers are those of `Regs.zero`, whose empty mask makes POLL and START raise NO_CHANNEL_SELECTED
on the bus as it was. -/
theorem resetLeavesAllZero : Obligations.ResetLeavesAllZero := by
  unfold Obligations.ResetLeavesAllZero
  have hcm : State.reset.regs.cm = 0#8 := rfl
  have hready : State.reset.regs.ready = false := rfl
  have hrsp := State.raise_noChannelSelected_rsp hready State.reset.bus
  refine ⟨hcm, rfl, rfl, rfl, hready, rfl, rfl, rfl, rfl, State.reset_fsmOut, ?poll, ?start⟩
  case poll => exact ⟨_, exec_poll_of_cm_zero hcm, hrsp, State.raise_bus _ _ _⟩
  case start => exact ⟨_, exec_start_of_cm_zero hcm, hrsp, State.raise_bus _ _ _⟩

end Sys2Proof.Machine

/-!
PROOFS. Encodings (spec/30_encoding.md). A field of a word is read back by the library's rules for `extractLsb'` of an
append: one lemma per field, and each layout statement is assembled from them.
-/

namespace Sys2Proof

/-! ### The command word (R91, R92) -/

@[simp] theorem Cmd.op_append (op : BitVec 3) (x : BitVec 48) : Cmd.op (op ++ x) = op :=
  BitVec.extractLsb'_append_eq_left

@[simp] theorem Cmd.op_cmdWord (op : BitVec 3) (cm am : Mask) (ceil : Nibw) : Cmd.op (cmdWord op cm am ceil) = op :=
  Laws.TableRow.cmdWord_op op cm am ceil

@[simp] theorem Cmd.cm_cmdWord (op : BitVec 3) (cm am : Mask) (ceil : Nibw) : Cmd.cm (cmdWord op cm am ceil) = cm := by
  rw [Cmd.cm, cmdWord, BitVec.extractLsb'_append_eq_of_le (by decide), BitVec.extractLsb'_append_eq_of_le (by decide)]
  exact BitVec.extractLsb'_append_eq_right

@[simp] theorem Cmd.am_cmdWord (op : BitVec 3) (cm am : Mask) (ceil : Nibw) : Cmd.am (cmdWord op cm am ceil) = am := by
  rw [Cmd.am, cmdWord, BitVec.extractLsb'_append_eq_of_le (by decide)]
  exact BitVec.extractLsb'_append_eq_right

@[simp] theorem Cmd.ceil_cmdWord (op : BitVec 3) (cm am : Mask) (ceil : Nibw) :
    Cmd.ceil (cmdWord op cm am ceil) = ceil :=
  BitVec.extractLsb'_append_eq_right

theorem decodeCmd_configure (cm am : Mask) (ceil : Nibw) : decodeCmd (cmdWord 0 cm am ceil) = .configure cm am ceil := by
  simp [decodeCmd]

/-- R91: CONFIGURE alone has operands, so bits [47:0] of a word with another code are ignored. -/
theorem decodeCmd_append_of_op_ne_zero {op : BitVec 3} (hop : op ≠ 0) (x y : BitVec 48) :
    decodeCmd (op ++ x) = decodeCmd (op ++ y) := by
  simp only [decodeCmd, Cmd.op_append]
  split
  case h_1 h0 => exact absurd (BitVec.eq_of_toNat_eq h0) hop
  all_goals rfl

/-- R91, R110: the word of an operation without operands is its code and 48 zeros. -/
theorem cmdWord_zero (op : BitVec 3) : cmdWord op 0 0 0 = op ++ 0#48 := by
  revert op; decide

/-- Settles O3: the four fields are read back one by one; the seven codes without operands decode as with bits [47:0]
zero. -/
theorem commandWordFields : Obligations.CommandWordFields := by
  unfold Obligations.CommandWordFields
  refine ⟨decodeCmd_configure, fun x => ?ignored, fun _ _ _ _ => rfl, fun P => ?zeros⟩
  case ignored =>
    have hx {op : BitVec 3} (hop : op ≠ 0) := decodeCmd_append_of_op_ne_zero hop x 0
    exact ⟨hx (op := 1) (by decide), hx (op := 2) (by decide), hx (op := 3) (by decide), hx (op := 4) (by decide),
      hx (op := 5) (by decide), hx (op := 6) (by decide), hx (op := 7) (by decide)⟩
  case zeros =>
    have hz (op : BitVec 3) := congrArg Encoded.cmd (cmdWord_zero op)
    exact ⟨hz 1, hz 2, hz 3, hz 4, hz 5, hz 6, hz 7⟩

end Sys2Proof

namespace Sys2Proof.Machine

/-! ### The config byte (R65, R101, R105) -/

/-- The status fields, read back from the two bytes they were put into. -/
theorem statusOf_append (ready : BitVec 1) (c : Chan) (g : Code) (x : BitVec 1) (b1 : Byte) :
    statusOf (ready ++ c ++ g ++ x ++ b1) = { devReady := ready.getLsbD 0, ch := c, gain := g } := by
  have hready : (ready ++ c ++ g ++ x ++ b1).getLsbD 15 = ready.getLsbD 0 := by
    simp only [BitVec.getLsbD_append]; simp
  have hch : (ready ++ c ++ g ++ x ++ b1).extractLsb' 12 3 = c := by
    rw [BitVec.extractLsb'_append_eq_of_le (by decide), BitVec.extractLsb'_append_eq_of_le (by decide),
      BitVec.extractLsb'_append_eq_of_le (by decide)]
    exact BitVec.extractLsb'_append_eq_right
  have hgain : (ready ++ c ++ g ++ x ++ b1).extractLsb' 9 3 = g := by
    rw [BitVec.extractLsb'_append_eq_of_le (by decide), BitVec.extractLsb'_append_eq_of_le (by decide)]
    exact BitVec.extractLsb'_append_eq_right
  rw [statusOf, hready, hch, hgain]

/-- R101, R105: what START_CONV writes reads back as its channel and gain. -/
theorem statusOf_configMsb (P : Params) (c : Chan) (g : Code) (b1 : Byte) :
    statusOf (configMsb P c g ++ b1) = { devReady := true, ch := c, gain := g } :=
  statusOf_append 1#1 c g P.cfgMsbBit0 b1

/-- Settles O4: the fields of `statusOf` are where `configMsb` puts them. -/
theorem configByteRoundTrip : Obligations.ConfigByteRoundTrip := by
  unfold Obligations.ConfigByteRoundTrip
  exact ⟨statusOf_append 1#1, statusOf_configMsb⟩

/-! ### The info field of COMM_ERROR (R95) -/

theorem Txn.code_ne_zero (t : Txn) : t.code ≠ 0 := by
  cases t <;> decide

theorem FailKind.code_ne_zero (k : FailKind) : k.code ≠ 0 := by
  cases k <;> decide

/-- Settles O6: `info` is the two codes appended, and neither code is 0. -/
theorem commErrorInfoCodes : Obligations.CommErrorInfoCodes := by
  unfold Obligations.CommErrorInfoCodes
  intro t k ready
  rw [Exc.response_commError]
  exact ⟨BitVec.extractLsb'_append_eq_right, BitVec.extractLsb'_append_eq_left, t.code_ne_zero, k.code_ne_zero,
    rfl, rfl, rfl, rfl, rfl, rfl, fun _ => rfl, rfl, rfl, fun _ => rfl⟩

/-! ### The raw sample (R104) -/

@[simp] theorem rawOf_append (hi : BitVec 12) (lo : BitVec 4) : rawOf (hi ++ lo) = hi :=
  BitVec.extractLsb'_append_eq_left

/-- A result word is its raw sample above the four ignored bits. -/
theorem rawOf_append_low (w : Reg16) : rawOf w ++ w.extractLsb' 0 4 = w :=
  BitVec.extractLsb'_append_extractLsb'

/-- R104: as a signed value the word is 16 times the sample plus the low four bits, so the shift by 4 gives the sample. -/
theorem rawOf_toInt (w : Reg16) : (rawOf w).toInt = w.toInt >>> (4 : Nat) := by
  have hw : w.toInt = 16 * (rawOf w).toInt + (w.extractLsb' 0 4).toNat := by
    conv_lhs => rw [← rawOf_append_low w, BitVec.toInt_append]
    simp
  have hlo : (w.extractLsb' 0 4).toNat < 16 := BitVec.isLt _
  rw [Int.shiftRight_eq_div_pow]
  omega

/-- Settles O7: `rawOf` splits a word into sample and low four bits; the range is that of 12 signed bits. -/
theorem rawSampleIsArithmeticShift : Obligations.RawSampleIsArithmeticShift := by
  unfold Obligations.RawSampleIsArithmeticShift
  refine ⟨fun w => ⟨rawOf_toInt w, BitVec.le_toInt _, Int.le_of_lt_add_one BitVec.toInt_lt⟩, fun hi x y => ?low,
    by decide, by decide, by decide, by decide, by decide⟩
  case low => rw [rawOf_append, rawOf_append]

end Sys2Proof.Machine

/-!
PROOFS. The gain table and the converter (spec/40_gain_table_converter.md). What the converter needs of the table is said
once of every code; the range and the sign of a voltage follow from those of the multiplier.
-/

namespace Sys2Proof.Machine

/-! ### The gain table (R130) -/

/-- R130: the codes above 5 share its entry. -/
theorem lookup_of_five_le : ∀ {g : Code}, 5 ≤ g → lookup g = lookup 5 := by decide

/-- R131: every scale is the multiplier's multiple of the voltage unit, 125 microvolts. -/
theorem lookup_microvolts : ∀ g : Code, (lookup g).microvolts = (lookup g).m.toNat * 125 := by decide

theorem lookup_m_pos : ∀ g : Code, 0 < (lookup g).m.toNat := by decide

/-- R133: the largest multiplier is that of code 0. -/
theorem lookup_m_le : ∀ g : Code, (lookup g).m.toNat ≤ 24 := by decide

/-- Settles O8: a row for each of the codes 0 to 5, and the entry that 6 and 7 share with 5. -/
theorem gainTableEntries : Obligations.GainTableEntries := by
  unfold Obligations.GainTableEntries
  refine ⟨?code0, ?code1, ?code2, ?code3, ?code4, ?code5, lookup_of_five_le (by decide), lookup_of_five_le (by decide)⟩
  all_goals exact ⟨rfl, rfl, rfl⟩

/-! ### The converter (R131 to R133) -/

/-- R133: |raw| is at most 2048 and M at most 24. -/
theorem natAbs_raw_mul_m_le (raw : Raw) (g : Code) : (raw.toInt * (lookup g).m.toNat).natAbs ≤ 49152 := by
  have hraw : raw.toInt.natAbs ≤ 2048 := abs12_toNat raw ▸ abs12_le raw
  calc (raw.toInt * (lookup g).m.toNat).natAbs
      = raw.toInt.natAbs * (lookup g).m.toNat := by rw [Int.natAbs_mul, Int.natAbs_natCast]
    _ ≤ 2048 * 24 := Nat.mul_le_mul hraw (lookup_m_le g)

/-- R132: the product fits 17 bits, so narrowing it loses nothing. -/
theorem convert_toInt (raw : Raw) (g : Code) : (convert raw g).toInt = raw.toInt * (lookup g).m.toNat := by
  have hrange := natAbs_raw_mul_m_le raw g
  exact BitVec.toInt_ofInt_eq_self (by decide) (by omega) (by omega)

/-- R131: the voltage in microvolts, nothing rounded. -/
theorem convert_toInt_microvolts (raw : Raw) (g : Code) :
    (convert raw g).toInt * 125 = raw.toInt * (lookup g).microvolts := by
  rw [convert_toInt, lookup_microvolts, Nat.cast_mul, Nat.cast_ofNat, mul_assoc]

/-- R133: the multiplier is positive. -/
theorem convert_toInt_sign (raw : Raw) (g : Code) : (convert raw g).toInt.sign = raw.toInt.sign := by
  have hm : (0 : Int) < (lookup g).m.toNat := Int.natCast_pos.mpr (lookup_m_pos g)
  rw [convert_toInt, Int.sign_mul, Int.sign_eq_one_of_pos hm, mul_one]

/-- Settles O9: the product stays within 49152 of zero, which 17 bits hold; unit and sign are those of the multiplier. -/
theorem convertIsExactProduct : Obligations.ConvertIsExactProduct := by
  unfold Obligations.ConvertIsExactProduct
  intro raw g
  exact ⟨convert_toInt raw g, convert_toInt_microvolts raw g, convert_toInt raw g ▸ natAbs_raw_mul_m_le raw g,
    convert_toInt_sign raw g⟩

end Sys2Proof.Machine

/-!
PROOFS. The gain state and the gain controller (spec/41_gain_state_controller.md). The nibble operations are read bit by
bit through `nibWrite_getLsbD`; ADJUST is said once for each of its bands, and the magnitude of the sample picks the band.
-/

namespace Sys2Proof.Machine

/-! ### The nibble operations (R150 to R152) -/

/-- R151, R152: clearing a nibble is writing 0 there. -/
theorem nibClear_eq_nibWrite_zero (w : Nibw) (n : Chan) : nibClear w n = nibWrite w n 0 := by
  simp [nibWrite]

theorem nibClear_getLsbD (w : Nibw) (n : Chan) (i : Nat) :
    (nibClear w n).getLsbD i =
      (w.getLsbD i && !(decide (4 * n.toNat ≤ i) && decide (i < 4 * n.toNat + 4))) := by
  rw [nibClear_eq_nibWrite_zero, nibWrite_getLsbD, ← Bool.decide_and]
  split
  case isTrue hin => simp [hin]
  case isFalse hout => simp [hout]

/-- R152: the written nibble is {0, c}, so its top bit is the one bit that could change. -/
theorem nibWrite_nibRead_self {w : Nibw} {n : Chan} (htop : nibTop w n = false) : nibWrite w n (nibRead w n) = w := by
  refine BitVec.eq_of_getLsbD_eq fun i _ => ?_
  rw [nibWrite_getLsbD]
  split
  case isFalse => rfl
  case isTrue hin =>
    obtain ⟨k, rfl⟩ := Nat.exists_eq_add_of_le hin.1
    rw [Nat.add_sub_cancel_left, nibRead_getLsbD]
    by_cases hk : k < 3
    · simp [hk]
    · obtain rfl : k = 3 := by omega
      exact htop.symm

/-- Settles O10: clearing and writing are read bit by bit, a read is three bits of the word. -/
theorem nibbleOperationLaws : Obligations.NibbleOperationLaws := by
  unfold Obligations.NibbleOperationLaws
  intro w n m c
  refine ⟨fun k hk => ?read, nibClear_getLsbD w n, ?readBack, ?topBack, fun hmn => ?other, nibWrite_nibRead_self⟩
  case read => rw [nibRead_getLsbD, decide_eq_true hk, Bool.true_and]
  case readBack => rw [nibRead_nibWrite, if_pos rfl]
  case topBack => rw [nibTop_nibWrite, if_pos rfl]
  case other => rw [nibRead_nibWrite, nibTop_nibWrite, if_neg hmn, if_neg hmn]; exact ⟨rfl, rfl⟩

/-! ### The decrease and overflow bands of ADJUST (R155, R160) -/

/-- One step down, not below 0; `Nat` subtraction says both. -/
theorem adjustAuto_toNat_of_decrease {a : Nat} (hband : band a = .decrease) (gc cur : Code) :
    (adjustAuto gc cur a).toNat = cur.toNat - 1 := by
  simp only [adjustAuto, hband]
  revert cur; decide

theorem adjustAuto_of_overflow {a : Nat} (hband : band a = .overflow) (gc cur : Code) :
    adjustAuto gc cur a = 0#3 := by
  simp only [adjustAuto, hband]

/-- Settles O11: the bounds on the magnitude pick the band, and neither band reads the ceiling. -/
theorem decreaseAndOverflowBands : Obligations.DecreaseAndOverflowBands := by
  unfold Obligations.DecreaseAndOverflowBands
  intro r n cur raw hauto
  rw [adjust_auto r n cur raw hauto, abs12_toNat]
  have hflag (hle : raw.toInt.natAbs ≤ 2044) : decide (2045 ≤ raw.toInt.natAbs) = false := decide_eq_false (by omega)
  refine ⟨fun hlo hhi => ?decrease, fun hlo => ?overflow, hflag⟩
  case decrease =>
    exact ⟨adjustAuto_toNat_of_decrease ((band_decrease_iff _).mpr ⟨hlo, hhi⟩) _ cur, hflag hhi⟩
  case overflow =>
    rw [adjustAuto_of_overflow ((band_overflow_iff _).mpr hlo), decide_eq_true hlo]

end Sys2Proof.Machine

/-!
PROOFS. The conversion state machine (spec/44_conversion_state_machine.md). CONFIGURE leaves the registers `configured`;
what its two packed words hold is read nibble by nibble through the laws of `packNibs`.
-/

namespace Sys2Proof.Machine

/-- An answer on the bus as it was changes the registers and the two result ports alone. -/
theorem State.respond_own_bus (s : State) (regs : Regs) (r : Response) :
    s.respond regs r s.bus = { s with regs := regs, rsp := some r.word, busResult := none } := rfl

/-! ### CONFIGURE (R211) -/

theorem exec_configure (cm am : Mask) (ceil : Nibw) (s : State) :
    exec (.configure cm am ceil) s = .next (s.respond (configured cm am ceil) { status := .ok } s.bus) := rfl

/-- R93, R94: OK is status 0, so with every other field zero the word is zero. -/
theorem Response.word_ok : ({ status := .ok } : Response).word = 0x00000000#32 := by decide

/-- R98: 6 and 7 become 5. -/
theorem normCeil_toNat (ceil : Nibw) (n : Chan) : (normCeil ceil n).toNat = min (nibRead ceil n).toNat 5 :=
  minCode_toNat (nibRead ceil n) ceilMax

@[simp] theorem configured_gc (cm am : Mask) (ceil : Nibw) (n : Chan) :
    (configured cm am ceil).gc n = normCeil ceil n :=
  nibRead_initGcw ceil n

/-- R23: 0 for an auto channel, the ceiling for a fixed one. -/
theorem configured_gs (cm am : Mask) (ceil : Nibw) (n : Chan) :
    (configured cm am ceil).gs n = if maskBit am n then 0#3 else (configured cm am ceil).gc n := by
  rw [configured_gc]
  exact nibRead_initGsw am ceil n

/-- Settles O19: the answer is on the bus as it was, the scalar registers are those of `configured`, and for each channel
the nibbles of the two packed words are the normalised ceiling and the code that follows from it, their top bits 0. -/
theorem configureResult : Obligations.ConfigureResult := by
  unfold Obligations.ConfigureResult
  intro cm am ceil s
  refine ⟨configured cm am ceil, ?answer, rfl, rfl, rfl, rfl, rfl, fun n =>
    ⟨?ceiling, configured_gs cm am ceil n, nibTop_initGcw ceil n, nibTop_initGsw am ceil n⟩⟩
  case answer => rw [exec_configure, State.respond_own_bus, Response.word_ok]
  case ceiling =>
    rw [configured_gc]
    exact normCeil_toNat ceil n

/-! ### POLL under back-pressure (R215) -/

/-- R215: once the mask is not empty, `ready` is tested before any bus activity. -/
theorem exec_poll_of_ready {s : State} (hcm : s.regs.cm ≠ 0#8) (hready : s.regs.ready = true) :
    exec .poll s =
      .next (s.respond s.regs { status := .channelReady, v := true, ch := s.regs.cache.ch } s.bus) := by
  rw [exec, execPoll, pollOp, if_neg hcm, if_pos hready]

/-- Settles O23: the answer of the back-pressure branch commits the registers as they are, on the bus as it was. -/
theorem pollBackPressure : Obligations.PollBackPressure := by
  unfold Obligations.PollBackPressure
  intro s hcm hready
  rw [exec_poll_of_ready hcm hready, State.respond_own_bus]

end Sys2Proof.Machine

/-!
PROOFS. The sample cache (spec/45_sample_cache.md). The four accessors answer in one way: the cached sample's channel and
gain with `ready` as it was, on the bus as it was. They differ in the data field and in the registers they leave.
-/

namespace Sys2Proof.Machine

/-- The frame of the accessors: only the registers given, the response port and the bus-result port change. -/
theorem State.respond_accessorResponse (s : State) (regs : Regs) (data : BitVec 17) :
    s.respond regs (accessorResponse s.regs data) s.bus =
      { s with
        regs := regs
        rsp := some (Response.word { status := .ok, v := s.regs.ready, ch := s.regs.cache.ch
                                     gain := s.regs.cache.gain, data := data })
        busResult := none } := by
  rw [State.respond_own_bus, accessorResponse]

theorem exec_consume (s : State) :
    exec .consume s =
      .next (s.respond { s.regs with ready := false } (accessorResponse s.regs s.regs.cache.vq) s.bus) := rfl

theorem exec_peek (s : State) :
    exec .peek s = .next (s.respond s.regs (accessorResponse s.regs s.regs.cache.vq) s.bus) := rfl

theorem exec_gainscale (s : State) :
    exec .gainscale s =
      .next (s.respond s.regs (accessorResponse s.regs ((lookup s.regs.cache.gain).m.setWidth 17)) s.bus) := rfl

theorem exec_precision (s : State) :
    exec .precision s =
      .next (s.respond s.regs (accessorResponse s.regs ((lookup s.regs.cache.gain).digits.setWidth 17)) s.bus) := rfl

/-- Settles O28: the response is made of the registers before the operation, and those left differ in `ready` alone. -/
theorem consumeResult : Obligations.ConsumeResult := by
  unfold Obligations.ConsumeResult
  intro s
  rw [exec_consume, State.respond_accessorResponse]

/-- Settles O29: the registers left are those the response is made of. -/
theorem peekResult : Obligations.PeekResult := by
  unfold Obligations.PeekResult
  intro s
  rw [exec_peek, State.respond_accessorResponse]

/-- Settles O30: M, zero-extended from 5 bits to the 17 of the data field, keeps its value. -/
theorem gainscaleResult : Obligations.GainscaleResult := by
  unfold Obligations.GainscaleResult
  intro s
  rw [exec_gainscale, State.respond_accessorResponse, BitVec.ofNat_toNat]

/-- Settles O31: the digits, zero-extended from 3 bits to the 17 of the data field, keep their value. -/
theorem precisionResult : Obligations.PrecisionResult := by
  unfold Obligations.PrecisionResult
  intro s
  rw [exec_precision, State.respond_accessorResponse, BitVec.ofNat_toNat]

end Sys2Proof.Machine

/-!
PROOFS. Exceptions (spec/60_exceptions.md). A host operation ends in one of three ways: it answers with a status that
reports no exception, it takes an exception, or it is stuck and answers nothing. So a response word with the status of an
exception was made by `State.raise`, which commits no register.
-/

namespace Sys2Proof.Machine

/-! ### Which response words report an exception (R93, R94, R260) -/

/-- R93: the status is the top field of the response word. -/
@[simp] theorem rspStatus_word (r : Response) : rspStatus r.word = r.status.code := by
  rw [rspStatus, Response.word, BitVec.extractLsb'_append_eq_of_le (by decide),
    BitVec.extractLsb'_append_eq_of_le (by decide), BitVec.extractLsb'_append_eq_of_le (by decide),
    BitVec.extractLsb'_append_eq_of_le (by decide), BitVec.extractLsb'_append_eq_of_le (by decide)]
  exact BitVec.extractLsb'_append_eq_left

/-- R94, R260: the codes 3, 4 and 7 are those of the exceptions; the other three statuses report none. -/
theorem not_isExceptionWord_word_iff (r : Response) :
    ¬ isExceptionWord r.word ↔ r.status = .ok ∨ r.status = .busy ∨ r.status = .channelReady := by
  rw [isExceptionWord, rspStatus_word]
  cases r.status <;> decide

/-- R213: a POLL that completes a conversion answers BUSY or CHANNEL_READY. -/
theorem pollResponse_status (r : Regs) (st : StatusBits) (raw : Raw) :
    (pollResponse r st raw).status = .busy ∨ (pollResponse r st raw).status = .channelReady := by
  unfold pollResponse
  split
  · exact .inr rfl
  · exact .inl rfl

/-! ### How a host operation ends (R74, R269) -/

/-- A host operation commits registers only with a response that reports no exception. -/
theorem Ends.hostOp_cases {i : Instr} {s t : State} (h : Ends s i t) (hi : i.isHostOp = true) :
    (∃ regs r b, ¬ isExceptionWord r.word ∧ t = s.respond regs r b) ∨
    (∃ e b, t = s.raise e b) ∨ (∃ x p q b, t = s.hang x p q b) := by
  cases h with
  | configured cm am ceil => exact .inl ⟨_, _, _, (not_isExceptionWord_word_iff _).mpr (.inl rfl), rfl⟩
  | answered _ r _ hr => exact .inl ⟨_, r, _, (not_isExceptionWord_word_iff _).mpr (.inl hr), rfl⟩
  | consumed r hr => exact .inl ⟨_, r, _, (not_isExceptionWord_word_iff _).mpr (.inl hr), rfl⟩
  | started c r b _ _ hr => exact .inl ⟨_, r, b, (not_isExceptionWord_word_iff _).mpr (.inl hr), rfl⟩
  | heldOff r b hr => exact .inl ⟨_, r, b, (not_isExceptionWord_word_iff _).mpr (.inr hr), rfl⟩
  | committed st raw _ _ _ b'' =>
    exact .inl ⟨_, _, b'', (not_isExceptionWord_word_iff _).mpr (.inr (pollResponse_status s.regs st raw)), rfl⟩
  | illegal => exact .inr (.inl ⟨.illegalOp, _, rfl⟩)
  | noChannel _ _ _ => exact .inr (.inl ⟨.noChannelSelected, _, rfl⟩)
  | commError _ _ x k b => exact .inr (.inl ⟨.commError x k, b, rfl⟩)
  | stuck _ _ x p q b => exact .inr (.inr ⟨x, p, q, b, rfl⟩)
  | handedBack _ hi' r b => exact absurd hi (by simp [hi'])

/-- An exception word on the response port was put there by `State.raise`. -/
theorem exists_eq_raise_of_isExceptionWord {i : Instr} {s t : State} {w : Rsp} (hi : i.isHostOp = true)
    (h : exec i s = .next t) (hrsp : t.rsp = some w) (hw : isExceptionWord w) : ∃ e b, t = s.raise e b := by
  rcases (ends_of_exec h).hostOp_cases hi with ⟨regs, r, b, hr, rfl⟩ | hraise | ⟨x, p, q, b, rfl⟩
  · rw [State.respond_rsp, Option.some.injEq] at hrsp
    exact absurd (hrsp ▸ hw) hr
  · exact hraise
  · rw [State.hang_rsp] at hrsp
    cases hrsp

/-- Settles O37: an exception word comes from `State.raise`, and that writes the bus and the two result ports alone. -/
theorem exceptionsLeaveStateUnchanged : Obligations.ExceptionsLeaveStateUnchanged := by
  unfold Obligations.ExceptionsLeaveStateUnchanged
  intro i s t w hi h hrsp hw
  obtain ⟨e, b, rfl⟩ := exists_eq_raise_of_isExceptionWord hi h hrsp hw
  exact ⟨State.raise_regs s e b, State.raise_params s e b, State.raise_inputs s e b, State.raise_inFlight s e b⟩

/-! ### The reserved operation code (R263) -/

theorem exec_reservedOp7 (s : State) : exec .reservedOp7 s = .next (s.raise .illegalOp s.bus) := rfl

/-- An exception on the bus as it was changes the two result ports alone. -/
theorem State.raise_own_bus (s : State) (e : Exc) :
    s.raise e s.bus = { s with rsp := some (e.response s.regs.ready).word, busResult := none } := rfl

/-- R93, R94: ILLEGAL_OP is status 7 in the top three bits, every other field zero. -/
theorem Response.word_illegalOp : ({ status := .illegalOp } : Response).word = 0xE0000000#32 := by decide

/-- Settles O32: ILLEGAL_OP, raised on the bus as it was. -/
theorem reservedCodeAnswersIllegalOp : Obligations.ReservedCodeAnswersIllegalOp := by
  unfold Obligations.ReservedCodeAnswersIllegalOp
  intro s
  rw [exec_reservedOp7, State.raise_own_bus, Exc.response_illegalOp, Response.word_illegalOp]

end Sys2Proof.Machine

/-!
PROOFS. Encodings, continued (spec/30_encoding.md): the decoder inverts the encoder, row by row of the operation table;
and the fields of the response word.
-/

namespace Sys2Proof

/-! ### Decode after encode (R91, R92, R106) -/

/-- R106: bit 15 of a read's request is 0, so the selector decides. -/
theorem decodeFrame_read (P : Params) (ptr : Byte) :
    decodeFrame P (ptr ++ 0#16) =
      if ptr = P.ptrConfig then .ok .statusRead else if ptr = P.ptrResult then .ok .resultRead
      else .error .noSuchSelector := by
  obtain ⟨hptr, hbit⟩ := Laws.TableRow.readFrame_bits ptr
  rw [decodeFrame, hbit, hptr]
  rfl

/-- R101, R106: channel and gain code are read back from where the frame's second byte has them. -/
theorem startFrame_operands (P : Params) (c : Chan) (g : Code) :
    (P.ptrConfig ++ configMsb P c g ++ P.cfgLsb).extractLsb' 12 3 = c ∧
    (P.ptrConfig ++ configMsb P c g ++ P.cfgLsb).extractLsb' 9 3 = g := by
  constructor
  · rw [BitVec.extractLsb'_append_eq_of_le (by decide), BitVec.extractLsb'_append_eq_of_add_le (by decide), configMsb,
      BitVec.extractLsb'_append_eq_of_le (by decide), BitVec.extractLsb'_append_eq_of_le (by decide)]
    exact BitVec.extractLsb'_append_eq_right
  · rw [BitVec.extractLsb'_append_eq_of_le (by decide), BitVec.extractLsb'_append_eq_of_add_le (by decide), configMsb,
      BitVec.extractLsb'_append_eq_of_le (by decide)]
    exact BitVec.extractLsb'_append_eq_right

theorem decodeFrame_start (P : Params) (c : Chan) (g : Code) :
    decodeFrame P (P.ptrConfig ++ configMsb P c g ++ P.cfgLsb) = .ok (.startConv c g) := by
  obtain ⟨hch, hgain⟩ := startFrame_operands P c g
  rw [decodeFrame, (Laws.TableRow.startFrame_bits P c g).2, if_pos rfl, hch, hgain]

/-- Settles O1: CONFIGURE's operands are read back; the other command words are closed; a FRAME word by bit 15
and then by its selector, where RESULT_READ needs that the two selectors differ. -/
theorem decodeEncodeRoundTrip : Obligations.DecodeEncodeRoundTrip := by
  unfold Obligations.DecodeEncodeRoundTrip
  intro P i hwf
  cases i with
  | configure cm am ceil => exact congrArg Except.ok (decodeCmd_configure cm am ceil)
  | start => rfl
  | poll => rfl
  | consume => rfl
  | peek => rfl
  | gainscale => rfl
  | precision => rfl
  | reservedOp7 => rfl
  | statusRead => exact (decodeFrame_read P P.ptrConfig).trans (if_pos rfl)
  | resultRead =>
    have hne : P.ptrResult ≠ P.ptrConfig := Ne.symm (bne_iff_ne.mp hwf)
    exact (decodeFrame_read P P.ptrResult).trans ((if_neg hne).trans (if_pos rfl))
  | startConv c g => exact decodeFrame_start P c g

/-- Settles O2: thirteen closed words, decoded. -/
theorem specWordsDecode : Obligations.SpecWordsDecode := by
  unfold Obligations.SpecWordsDecode
  decide

end Sys2Proof

namespace Sys2Proof.Machine

/-! ### The response word (R93, R94) -/

section
variable (r : Response)

@[simp] theorem Response.word_v : r.word.getLsbD 28 = r.v := by
  simp only [Response.word, BitVec.getLsbD_append]; simp

@[simp] theorem Response.word_ch : r.word.extractLsb' 25 3 = r.ch := by
  rw [Response.word, BitVec.extractLsb'_append_eq_of_le (by decide), BitVec.extractLsb'_append_eq_of_le (by decide),
    BitVec.extractLsb'_append_eq_of_le (by decide), BitVec.extractLsb'_append_eq_of_le (by decide)]
  exact BitVec.extractLsb'_append_eq_right

@[simp] theorem Response.word_gain : r.word.extractLsb' 22 3 = r.gain := by
  rw [Response.word, BitVec.extractLsb'_append_eq_of_le (by decide), BitVec.extractLsb'_append_eq_of_le (by decide),
    BitVec.extractLsb'_append_eq_of_le (by decide)]
  exact BitVec.extractLsb'_append_eq_right

@[simp] theorem Response.word_info : r.word.extractLsb' 18 4 = r.info := by
  rw [Response.word, BitVec.extractLsb'_append_eq_of_le (by decide), BitVec.extractLsb'_append_eq_of_le (by decide)]
  exact BitVec.extractLsb'_append_eq_right

@[simp] theorem Response.word_bit17 : r.word.getLsbD 17 = false := by
  simp only [Response.word, BitVec.getLsbD_append]; simp

@[simp] theorem Response.word_data : r.word.extractLsb' 0 17 = r.data :=
  BitVec.extractLsb'_append_eq_right

end

/-- Settles O5: the word is an append, and each field is read back from its place in it. -/
theorem responseWordLayout : Obligations.ResponseWordLayout := by
  unfold Obligations.ResponseWordLayout
  exact ⟨fun r => ⟨rspStatus_word r, r.word_v, r.word_ch, r.word_gain, r.word_info, r.word_bit17, r.word_data⟩,
    rfl, rfl, rfl, rfl, rfl, rfl⟩

end Sys2Proof.Machine

/-!
PROOFS. The gain controller, continued (spec/41_gain_state_controller.md): the increase band against the spec's own
table, and what holds of ADJUST in every band.
-/

namespace Sys2Proof.Machine

/-! ### The increase band (R155, R158) -/

/-- R158: each threshold of the table is SEARCH_NUM divided by a divisor of the loop. From code 0 the first divisor is 6,
and its threshold, 1024, is passed at once. -/
theorem search_toNat_eq_increaseTable {a : Nat} (ha : a < 1024) (cur : Code) :
    (search a cur).toNat = increaseTable cur.toNat a := by
  rw [search_toNat]
  have hcur := cur.isLt
  have hj0 : searchJ0 cur = if cur.toNat = 0 then 6 else 8 := by
    simp only [searchJ0, ← BitVec.toNat_inj, BitVec.toNat_ofNat, Nat.zero_mod]
  rw [hj0]
  generalize cur.toNat = n at hcur
  interval_cases n <;> norm_num [searchFrom, searchNum, increaseTable] <;> split_ifs <;> omega

theorem adjustAuto_of_increase {a : Nat} (hband : band a = .increase) (gc cur : Code) :
    adjustAuto gc cur a = minCode (search a cur) gc := by
  simp only [adjustAuto, hband]

/-- Settles O12: below 1024 the band is the increase band, the search ends at the table's code, and the clamp is the
minimum. -/
theorem increaseBandTable : Obligations.IncreaseBandTable := by
  unfold Obligations.IncreaseBandTable
  intro r n cur raw hauto ha
  have hsearch := search_toNat_eq_increaseTable ha cur
  rw [adjust_auto r n cur raw hauto, abs12_toNat, adjustAuto_of_increase ((band_increase_iff _).mpr ha), minCode_toNat,
    hsearch]
  exact ⟨rfl, rfl, decide_eq_false (by omega)⟩

/-! ### Every band (R161) -/

theorem adjustAuto_of_hold {a : Nat} (hband : band a = .hold) (gc cur : Code) : adjustAuto gc cur a = cur := by
  simp only [adjustAuto, hband]

/-- R161: the increase band alone can raise the code, and the search stops at 5. -/
theorem adjustAuto_toNat_le (gc cur : Code) (a : Nat) : (adjustAuto gc cur a).toNat ≤ max cur.toNat 5 := by
  cases hband : band a with
  | increase =>
    have := search_bounds a cur
    rw [adjustAuto_of_increase hband, minCode_toNat]
    omega
  | hold => rw [adjustAuto_of_hold hband]; omega
  | decrease => rw [adjustAuto_toNat_of_decrease hband]; omega
  | overflow => rw [adjustAuto_of_overflow hband]; exact Nat.zero_le _

/-- R161: at most one step down, but for the overflow band and for a code above its ceiling. -/
theorem le_adjustAuto_toNat_succ {gc cur : Code} {a : Nat} (hle : cur ≤ gc) (ha : a < 2045) :
    cur.toNat ≤ (adjustAuto gc cur a).toNat + 1 := by
  rw [BitVec.le_def] at hle
  cases hband : band a with
  | increase =>
    have := search_bounds a cur
    rw [adjustAuto_of_increase hband, minCode_toNat]
    omega
  | hold => rw [adjustAuto_of_hold hband]; omega
  | decrease => rw [adjustAuto_toNat_of_decrease hband]; omega
  | overflow => rw [band_overflow_iff] at hband; omega

theorem adjust_toNat_le (r : Regs) (n : Chan) (cur : Code) (raw : Raw) :
    (adjust r n cur raw).1.toNat ≤ max cur.toNat 5 := by
  cases hauto : maskBit r.am n with
  | false => rw [adjust_fixed r n cur raw hauto]; exact le_max_left _ _
  | true => rw [adjust_auto r n cur raw hauto]; exact adjustAuto_toNat_le _ _ _

theorem adjust_overflow_iff (r : Regs) (n : Chan) (cur : Code) (raw : Raw) :
    (adjust r n cur raw).2 = true ↔ maskBit r.am n = true ∧ 2045 ≤ raw.toInt.natAbs := by
  cases hauto : maskBit r.am n with
  | false => simp [adjust_fixed r n cur raw hauto]
  | true => simp [adjust_auto r n cur raw hauto, abs12_toNat]

theorem adjust_of_hold (r : Regs) (n : Chan) (cur : Code) {raw : Raw} (hlo : 1024 ≤ raw.toInt.natAbs)
    (hhi : raw.toInt.natAbs ≤ 1945) : adjust r n cur raw = (cur, false) := by
  cases hauto : maskBit r.am n with
  | false => exact adjust_fixed r n cur raw hauto
  | true =>
    rw [adjust_auto r n cur raw hauto, abs12_toNat, adjustAuto_of_hold ((band_hold_iff _).mpr ⟨hlo, hhi⟩)]
    exact congrArg (Prod.mk cur) (decide_eq_false (by omega))

theorem le_adjust_toNat_succ {r : Regs} {n : Chan} {cur : Code} {raw : Raw} (hle : cur ≤ r.gc n)
    (hovf : (adjust r n cur raw).2 = false) : cur.toNat ≤ (adjust r n cur raw).1.toNat + 1 := by
  cases hauto : maskBit r.am n with
  | false => rw [adjust_fixed r n cur raw hauto]; exact Nat.le_succ _
  | true =>
    rw [adjust_auto r n cur raw hauto] at hovf ⊢
    exact le_adjustAuto_toNat_succ hle (by simpa using hovf)

/-- The sample counts by its magnitude alone. -/
theorem adjust_congr_natAbs (r : Regs) (n : Chan) (cur : Code) {raw raw' : Raw}
    (h : raw'.toInt.natAbs = raw.toInt.natAbs) : adjust r n cur raw' = adjust r n cur raw := by
  have habs : abs12 raw' = abs12 raw := BitVec.eq_of_toNat_eq (by rw [abs12_toNat, abs12_toNat, h])
  simp only [adjust, overflowed, habs]

/-- Settles O13: a fixed channel keeps its code; on an auto channel each item is read off the bounds of the bands. -/
theorem adjustProperties : Obligations.AdjustProperties := by
  unfold Obligations.AdjustProperties
  intro r n cur raw
  have hmax := adjust_toNat_le r n cur raw
  refine ⟨adjust_of_hold r n cur, fun hauto hle => ?ceiling, adjust_overflow_iff r n cur raw, ⟨hmax, fun hle => ?five⟩,
    ⟨by omega, le_adjust_toNat_succ⟩, adjust_fixed r n cur raw, fun raw' => adjust_congr_natAbs r n cur⟩
  case ceiling =>
    rw [adjust_auto r n cur raw hauto]
    exact adjustAuto_le _ _ _ hle
  case five =>
    rw [BitVec.le_def] at hle ⊢
    exact hmax.trans (max_le hle le_rfl)

end Sys2Proof.Machine

/-!
PROOFS. The scheduler (spec/42_channel_scheduler.md). NEXT scans the eight channels in a rotated order, and filtering a
rotation by the mask rotates the list of the enabled channels: so one pick after the j-th enabled channel is the next in
that list, cyclically.
-/

namespace Sys2Proof.Machine

/-! ### The corner cases (R181) -/

theorem next_zero_mask : ∀ last : Option Chan, next 0#8 last = none := by decide

theorem next_full_mask : ∀ l : Chan, next 0xFF#8 (some l) = some (l + 1#3) := by decide

/-- R180: with no last channel the scan starts where it would after channel 7. -/
theorem next_none (cm : Mask) : next cm none = next cm (some 7#3) := rfl

theorem exists_next_eq_some {cm : Mask} (hcm : cm ≠ 0#8) (last : Option Chan) : ∃ c, next cm last = some c := by
  obtain ⟨n, hn⟩ := exists_enabled cm hcm
  exact next_isSome cm last n hn

/-- Settles O14: what NEXT answers is enabled, and it answers whenever a channel is enabled; the cases on a fixed mask are
closed. -/
theorem nextCornerCases : Obligations.NextCornerCases := by
  unfold Obligations.NextCornerCases
  refine ⟨fun c cm honly => ?single, next_none, fun cm l hcm => exists_next_eq_some hcm (some l), next_full_mask,
    next_zero_mask, next_enabled⟩
  case single =>
    obtain ⟨c', hc'⟩ := next_isSome cm (some c) c ((honly c).mpr rfl)
    rw [hc', (honly c').mp (next_enabled cm _ c' hc')]

/-! ### The order of the channels -/

/-- The channel at each place of the scan's list. -/
theorem allChans_getElem?_toNat : ∀ n : Chan, allChans[n.toNat]? = some n := by decide

theorem allChans_getElem_toNat : ∀ i : Fin allChans.length, allChans[i].toNat = i := by decide

/-- A channel stands in `allChans` at its own index. -/
theorem length_of_allChans_eq {as bs : List Chan} {c : Chan} (h : allChans = as ++ c :: bs) : as.length = c.toNat := by
  have hlt : as.length < allChans.length := by rw [h, List.length_append, List.length_cons]; omega
  have hc : allChans[as.length] = c := by simp [h]
  rw [← hc]
  exact (allChans_getElem_toNat ⟨as.length, hlt⟩).symm

/-- R180: without a last channel the scan goes through the channels in ascending order. -/
theorem allChans_map_scanStart_none : allChans.map (scanStart none + ·) = allChans := by decide

/-- R212: without a last channel NEXT answers the lowest enabled one. -/
theorem maskBit_of_lt_next {cm : Mask} {c n : Chan} (hc : next cm none = some c) (hn : n < c) : maskBit cm n = false := by
  rw [next, allChans_map_scanStart_none, List.find?_eq_some_iff_append] at hc
  obtain ⟨-, as, bs, hsplit, has⟩ := hc
  have hlt : n.toNat < as.length := length_of_allChans_eq hsplit ▸ BitVec.lt_def.mp hn
  have hget : as[n.toNat]? = some n := by
    rw [← List.getElem?_append_left hlt (l₂ := c :: bs), ← hsplit, allChans_getElem?_toNat]
  simpa using has n (List.mem_of_getElem? hget)

/-! ### The cyclic order (R183) -/

/-- R180: the scan after channel `l` is the list of the channels rotated to start behind it. -/
theorem allChans_map_add : ∀ l : Chan, allChans.map (l + 1#3 + ·) = allChans.rotate (l.toNat + 1) := by decide

theorem rotate_length_succ {α : Type} (xs ys : List α) (x : α) :
    (xs ++ x :: ys).rotate (xs.length + 1) = ys ++ (xs ++ [x]) := by
  have h := List.rotate_append_length_eq (xs ++ [x]) ys
  rwa [List.append_assoc, List.singleton_append, List.length_append, List.length_singleton] at h

/-- The scan after the j-th enabled channel, filtered by the mask, is the list of enabled channels rotated by j + 1. -/
theorem filter_rotate_allChans {cm : Mask} {as bs : List Chan} {c : Chan} (h : enabledChans cm = as ++ c :: bs) :
    (allChans.rotate (c.toNat + 1)).filter (maskBit cm) = (enabledChans cm).rotate (as.length + 1) := by
  obtain ⟨l₁, l₂, hall, rfl, hl₂⟩ := List.filter_eq_append_iff.mp h
  obtain ⟨l₃, l₄, rfl, hskip, hc, rfl⟩ := List.filter_eq_cons_iff.mp hl₂
  have hall' : allChans = (l₁ ++ l₃) ++ c :: l₄ := by simpa using hall
  have hskip' : l₃.filter (maskBit cm) = [] := List.filter_eq_nil_iff.mpr hskip
  rw [h, rotate_length_succ, ← length_of_allChans_eq hall', hall', rotate_length_succ]
  simp [hskip', hc]

/-- R183: one pick after the j-th enabled channel is the (j + 1)-th, cyclically. -/
theorem next_of_getElem? {cm : Mask} {c : Chan} {j : Nat} (hj : (enabledChans cm)[j]? = some c) :
    next cm (some c) = (enabledChans cm)[(j + 1) % (enabledChans cm).length]? := by
  obtain ⟨hlt, rfl⟩ := List.getElem?_eq_some_iff.mp hj
  have hsplit : enabledChans cm =
      (enabledChans cm).take j ++ (enabledChans cm)[j] :: (enabledChans cm).drop (j + 1) := by
    rw [← List.drop_eq_getElem_cons hlt, List.take_append_drop]
  have hlen : ((enabledChans cm).take j).length = j := by rw [List.length_take]; omega
  rw [next, ← List.head?_filter, scanStart, allChans_map_add, filter_rotate_allChans hsplit, hlen, ← List.rotate_mod]
  exact List.head?_rotate (Nat.mod_lt _ (by omega))

theorem enabledChans_ne_nil {cm : Mask} (hcm : cm ≠ 0#8) : enabledChans cm ≠ [] := by
  obtain ⟨n, hn⟩ := exists_enabled cm hcm
  exact List.ne_nil_of_mem (List.mem_filter.mpr ⟨mem_allChans n, hn⟩)

/-- R183: the first pick is the lowest enabled channel. -/
theorem next_none_eq_getElem? (cm : Mask) : next cm none = (enabledChans cm)[0]? := by
  rw [next, allChans_map_scanStart_none, ← List.head?_filter, ← List.head?_eq_getElem?]
  rfl

theorem visit_eq_getElem? {cm : Mask} (hcm : cm ≠ 0#8) (k : Nat) :
    visit cm k = (enabledChans cm)[k % (enabledChans cm).length]? := by
  have hpos : 0 < (enabledChans cm).length := List.length_pos_iff.mpr (enabledChans_ne_nil hcm)
  induction k with
  | zero => rw [visit, Nat.zero_mod, next_none_eq_getElem?]
  | succ k ih =>
    have hget := List.getElem?_eq_getElem (Nat.mod_lt k hpos)
    rw [visit, ih, hget]
    exact (next_of_getElem? hget).trans (by rw [Nat.mod_add_mod])

/-- Settles O15, by induction on the number of picks. -/
theorem nextCyclesEnabledChannels : Obligations.NextCyclesEnabledChannels := by
  unfold Obligations.NextCyclesEnabledChannels
  intro cm k hcm
  have hpos : 0 < (enabledChans cm).length := List.length_pos_iff.mpr (enabledChans_ne_nil hcm)
  refine ⟨visit_eq_getElem? hcm k, ?_⟩
  rw [visit_eq_getElem? hcm k, List.getElem?_eq_getElem (Nat.mod_lt k hpos)]
  rfl

end Sys2Proof.Machine

/-!
PROOFS. The command port and one step (spec/30_encoding.md section 4, spec/60_exceptions.md section 7). What the host
presents first decides a step: nothing or a word at a stuck port leaves the registers alone, `rst` resets them, and a word
at a free port is decoded and run or refused.
-/

namespace Sys2Proof.Machine

/-! ### What a step does, by what is presented -/

section
variable {s : State} {e : Encoded} {rest : List PortInput}

theorem step_of_inputs_nil (h : s.inputs = []) : step s = .next s.quiet := by
  simp only [step, fetch, h]

theorem step_of_rst (h : s.inputs = .rst :: rest) : step s = .next { s with inputs := rest }.hardReset := by
  simp only [step, fetch, h]

/-- R96, R295: a word presented while `cmd_ready` is 0 is not accepted. -/
theorem step_of_word_stuck {f : InFlight} (h : s.inputs = .word e :: rest) (hf : s.inFlight = some f) :
    step s = .next { s with inputs := rest }.quiet := by
  simp [step, fetch, h, State.cmdReady, hf]

theorem step_of_decode_ok {i : Instr} (h : s.inputs = .word e :: rest) (hf : s.inFlight = none)
    (hi : decode s.params e = .ok i) : step s = exec i { s with inputs := rest } := by
  simp [step, fetch, h, State.cmdReady, hf, hi]

theorem step_of_decode_error {x : DecodeError} (h : s.inputs = .word e :: rest) (hf : s.inFlight = none)
    (hx : decode s.params e = .error x) : step s = .refused .noSuchFrame := by
  simp [step, fetch, h, State.cmdReady, hf, hx]

/-- R107: every command word is an operation. -/
theorem exists_frame_of_decode_error {P : Params} {x : DecodeError} (hx : decode P e = .error x) :
    ∃ w, e = .frame w := by
  cases e with
  | cmd w => cases hx
  | frame w => exact ⟨w, rfl⟩

end

/-- Everything a step can do. -/
theorem step_cases (s : State) :
    (∃ rest, step s = .next { s with inputs := rest }.quiet) ∨
    (∃ rest, step s = .next { s with inputs := rest }.hardReset) ∨
    (∃ i rest, step s = exec i { s with inputs := rest }) ∨
    (∃ w rest, s.inputs = .word (.frame w) :: rest ∧ step s = .refused .noSuchFrame) := by
  match h : s.inputs with
  | [] => exact .inl ⟨s.inputs, step_of_inputs_nil h⟩
  | .rst :: rest => exact .inr (.inl ⟨rest, step_of_rst h⟩)
  | .word e :: rest =>
    obtain hf | ⟨f, hf⟩ := Option.eq_none_or_eq_some s.inFlight
    · match hd : decode s.params e with
      | .ok i => exact .inr (.inr (.inl ⟨i, rest, step_of_decode_ok h hf hd⟩))
      | .error x =>
        obtain ⟨w, rfl⟩ := exists_frame_of_decode_error hd
        exact .inr (.inr (.inr ⟨w, rest, rfl, step_of_decode_error h hf hd⟩))
    · exact .inl ⟨rest, step_of_word_stuck h hf⟩

/-- A step that answers a next state has run an operation, or reset the core, or held it. -/
theorem step_next_cases {s t : State} (h : step s = .next t) :
    (∃ rest, t = { s with inputs := rest }.quiet) ∨ (∃ rest, t = { s with inputs := rest }.hardReset) ∨
    (∃ i rest, exec i { s with inputs := rest } = .next t) := by
  rcases step_cases s with ⟨rest, e⟩ | ⟨rest, e⟩ | ⟨i, rest, e⟩ | ⟨w, rest, -, e⟩ <;> rw [e] at h
  · cases h; exact .inl ⟨rest, rfl⟩
  · cases h; exact .inr (.inl ⟨rest, rfl⟩)
  · exact .inr (.inr ⟨i, rest, h⟩)
  · cases h

/-- Settles O51: the port is free, so the word is taken and decoded. -/
theorem stepRunsDecodedOperation : Obligations.StepRunsDecodedOperation := by
  unfold Obligations.StepRunsDecodedOperation
  intro s e rest i h hf hi
  exact step_of_decode_ok h hf hi

/-- Settles O52: with nothing presented the step clears the two result ports alone. -/
theorem idleStepHolds : Obligations.IdleStepHolds := by
  unfold Obligations.IdleStepHolds
  intro s h
  exact step_of_inputs_nil h

/-- Settles O49: what is presented is nothing, or a word at a port that is not ready. -/
theorem stuckUntilReset : Obligations.StuckUntilReset := by
  unfold Obligations.StuckUntilReset
  intro s f hf hrst
  match h : s.inputs with
  | [] =>
    have htail : ([] : List PortInput).tail = s.inputs := h.symm
    rw [step_of_inputs_nil h, htail]
    rfl
  | .rst :: rest => exact absurd (congrArg List.head? h) hrst
  | .word e :: rest => exact step_of_word_stuck h hf

/-- Settles O53: an operation answers a next state, and a word that is no operation is a frame. -/
theorem stepNeverFaults : Obligations.StepNeverFaults := by
  unfold Obligations.StepNeverFaults
  intro s
  rcases step_cases s with ⟨rest, e⟩ | ⟨rest, e⟩ | ⟨i, rest, e⟩ | ⟨w, rest, hw, e⟩
  · rw [e]; exact ⟨nofun, nofun⟩
  · rw [e]; exact ⟨nofun, nofun⟩
  · obtain ⟨t, ht, -⟩ := exec_ends i { s with inputs := rest }
    rw [e, ht]; exact ⟨nofun, nofun⟩
  · rw [e]; exact ⟨nofun, fun _ _ => ⟨w, rest, hw⟩⟩

/-! ### The parameters (R8) -/

theorem exec_params {i : Instr} {s t : State} (h : exec i s = .next t) : t.params = s.params := by
  cases ends_of_exec h <;> rfl

/-- Settles O54. -/
theorem parametersNeverChange : Obligations.ParametersNeverChange := by
  unfold Obligations.ParametersNeverChange
  intro s t h
  rcases step_next_cases h with ⟨rest, rfl⟩ | ⟨rest, rfl⟩ | ⟨i, rest, h⟩
  · rfl
  · rfl
  · exact exec_params (s := { s with inputs := rest }) h

/-! ### Reset (R291, R292) -/

/-- R291: CONFIGURE 0, 0, 0 leaves the registers as `rst` does. -/
theorem configured_zero : configured 0#8 0#8 0#32 = Regs.zero := by decide

/-- Settles O17: `rst` is taken whether or not the port is free. -/
theorem resetInputActs : Obligations.ResetInputActs := by
  unfold Obligations.ResetInputActs
  refine ⟨fun s rest h => ⟨_, step_of_rst h, ?_⟩, fun s => ⟨_, exec_configure 0 0 0 s, configured_zero⟩⟩
  exact ⟨rfl, rfl, rfl, rfl, rfl, rfl, rfl, rfl⟩

/-- Settles O18: the cache is zero, and code 0 has multiplier 24 and three digits. -/
theorem answersStraightAfterReset : Obligations.AnswersStraightAfterReset := by
  unfold Obligations.AnswersStraightAfterReset
  exact ⟨⟨_, exec_consume _, by decide⟩, ⟨_, exec_peek _, by decide⟩, ⟨_, exec_gainscale _, by decide⟩,
    ⟨_, exec_precision _, by decide⟩⟩

/-! ### The level output fsm (R31) -/

theorem State.fsmOut_of_inFlight_none {s : State} (h : s.inFlight = none) :
    s.fsmOut = fsmOfFlags s.regs.ready s.regs.armed := by
  rw [State.fsmOut, h]

/-- R31: ResultPending names no pair of flags. -/
theorem fsmOfFlags_ne_resultPending : ∀ ready armed : Bool, fsmOfFlags ready armed ≠ 0b10#2 := by decide

/-- Settles O50: with nothing in flight `fsm` is the name of the flags. -/
theorem fsmNamesTheFlags : Obligations.FsmNamesTheFlags := by
  unfold Obligations.FsmNamesTheFlags
  intro s h
  rw [State.fsmOut_of_inFlight_none h]
  refine ⟨fun hr ha => ?_, fun hr ha => ?_, fun hr ha => ?_, fsmOfFlags_ne_resultPending _ _⟩
  all_goals rw [hr, ha]; rfl

end Sys2Proof.Machine

/-!
PROOFS. What each operation leaves of the registers (spec/10_state.md). Four endings write registers: CONFIGURE, CONSUME,
a START that has started, and a POLL that commits; each of the others leaves them as they were.
-/

namespace Sys2Proof.Machine

/-! ### The gain registers after a committed POLL (R162, R213) -/

/-- On a fixed channel ADJUST gives back the stored code, so one equation covers both kinds of channel. -/
theorem nibRead_adjustedGsw (r : Regs) (ch : Chan) (raw : Raw) (n : Chan) :
    nibRead (adjustedGsw r ch raw) n = if n = ch then (adjust r ch (r.gs ch) raw).1 else r.gs n := by
  cases hauto : maskBit r.am ch with
  | true => rw [adjustedGsw, if_pos hauto, nibRead_nibWrite]; rfl
  | false =>
    rw [adjustedGsw, if_neg (Bool.eq_false_iff.mp hauto), adjust_fixed r ch _ raw hauto]
    split
    case isTrue h => rw [h]; rfl
    case isFalse => rfl

theorem nibTop_adjustedGsw {r : Regs} {n : Chan} (h : nibTop r.gsw n = false) (ch : Chan) (raw : Raw) :
    nibTop (adjustedGsw r ch raw) n = false := by
  rw [adjustedGsw]
  split
  · rw [nibTop_nibWrite, h, ite_self]
  · exact h

theorem adjust_le_gc {r : Regs} {n : Chan} {cur : Code} (h : cur ≤ r.gc n) (raw : Raw) :
    (adjust r n cur raw).1 ≤ r.gc n := by
  cases hauto : maskBit r.am n with
  | true => rw [adjust_auto r n cur raw hauto]; exact adjustAuto_le _ _ _ h
  | false => rw [adjust_fixed r n cur raw hauto]; exact h

/-- R26 I4: a committed POLL leaves every code at or below its ceiling. -/
theorem nibRead_adjustedGsw_le_gc {r : Regs} (h : ∀ n, r.gs n ≤ r.gc n) (ch : Chan) (raw : Raw) (n : Chan) :
    nibRead (adjustedGsw r ch raw) n ≤ r.gc n := by
  rw [nibRead_adjustedGsw]
  split
  case isTrue hn => rw [hn]; exact adjust_le_gc (h ch) raw
  case isFalse => exact h n

/-! ### The invariant of the registers (R26, R30, R214) -/

/-- R26 I4. -/
theorem gs_le_gc_of_gainInvAt {r : Regs} {n : Chan} (h : GainInvAt r n) : r.gs n ≤ r.gc n := by
  obtain ⟨-, -, -, hle, -⟩ := h
  exact hle

theorem gainInvAt_configured (cm am : Mask) (ceil : Nibw) (n : Chan) : GainInvAt (configured cm am ceil) n := by
  have hgc : (configured cm am ceil).gc n ≤ 5#3 := by rw [configured_gc]; exact normCeil_le ceil n
  have hle : (configured cm am ceil).gs n ≤ (configured cm am ceil).gc n := by
    rw [configured_gs]
    split
    · exact Nat.zero_le _
    · exact BitVec.le_refl _
  refine ⟨nibTop_initGsw am ceil n, nibTop_initGcw ceil n, hgc, hle, fun hfixed => ?fixed, BitVec.le_trans hle hgc⟩
  case fixed =>
    rw [configured_gs, if_neg]
    exact Bool.eq_false_iff.mp hfixed

theorem regsInv_configured (cm am : Mask) (ceil : Nibw) : RegsInv (configured cm am ceil) :=
  ⟨gainInvAt_configured cm am ceil, nofun, fun _ => rfl⟩

theorem gainInvAt_pollCommit {r : Regs} (h : ∀ n, GainInvAt r n) (st : StatusBits) (raw : Raw) (n : Chan) :
    GainInvAt (pollCommit r st raw) n := by
  obtain ⟨-, ham, hgcw, hgsw, -⟩ := pollCommit_fields r st raw
  obtain ⟨htop, hceilTop, hceil, -, hfix, -⟩ := h n
  have hle : nibRead (adjustedGsw r st.ch raw) n ≤ r.gc n :=
    nibRead_adjustedGsw_le_gc (fun m => gs_le_gc_of_gainInvAt (h m)) st.ch raw n
  simp only [GainInvAt, Regs.gs, Regs.gc, ham, hgcw, hgsw]
  refine ⟨nibTop_adjustedGsw htop st.ch raw, hceilTop, hceil, hle, fun hfixed => ?fixed, BitVec.le_trans hle hceil⟩
  case fixed =>
    rw [nibRead_adjustedGsw]
    split
    case isTrue hn => subst hn; rw [adjust_fixed r _ _ raw hfixed]; exact hfix hfixed
    case isFalse => exact hfix hfixed

theorem regsInv_pollCommit {r : Regs} (h : RegsInv r) (hcm : r.cm ≠ 0#8) (st : StatusBits) (raw : Raw) :
    RegsInv (pollCommit r st raw) := by
  obtain ⟨hcm', -, -, -, harmed, -⟩ := pollCommit_fields r st raw
  exact ⟨gainInvAt_pollCommit h.1 st raw, fun _ => harmed, fun h0 => absurd (hcm' ▸ h0) hcm⟩

theorem exec_keeps_regsInv {i : Instr} {s t : State} (hinv : RegsInv s.regs) (h : exec i s = .next t) :
    RegsInv t.regs := by
  obtain ⟨hgain, harmed, hempty⟩ := hinv
  cases ends_of_exec h with
  | configured cm am ceil => exact regsInv_configured cm am ceil
  | consumed => exact ⟨hgain, nofun, fun _ => rfl⟩
  | started => exact ⟨hgain, fun _ => rfl, hempty⟩
  | committed st raw _ _ _ _ hcm => exact regsInv_pollCommit ⟨hgain, harmed, hempty⟩ hcm st raw
  | _ => exact ⟨hgain, harmed, hempty⟩

/-- Settles O56: CONFIGURE 0, 0, 0 leaves the registers of reset. -/
theorem registerInvariantAtReset : Obligations.RegisterInvariantAtReset := by
  unfold Obligations.RegisterInvariantAtReset
  have h := regsInv_configured 0#8 0#8 0#32
  rwa [configured_zero] at h

/-- Settles O55: a step runs an operation, or resets the registers, or leaves them. -/
theorem registerInvariantKept : Obligations.RegisterInvariantKept := by
  unfold Obligations.RegisterInvariantKept
  intro s t hinv h
  rcases step_next_cases h with ⟨rest, rfl⟩ | ⟨rest, rfl⟩ | ⟨i, rest, h⟩
  · exact hinv
  · exact registerInvariantAtReset
  · exact exec_keeps_regsInv (s := { s with inputs := rest }) hinv h

/-- A run that goes on has made a first step. -/
theorem exists_step_of_run_succ {k : Nat} {s t : State} (h : Host.Core.run core (k + 1) s = .next t) :
    ∃ s', step s = .next s' ∧ Host.Core.run core k s' = .next t := by
  simp only [Host.Core.run, core] at h
  match hs : step s with
  | .next s' => rw [hs] at h; exact ⟨s', rfl, h⟩
  | .fault r => rw [hs] at h; cases h
  | .refused r => rw [hs] at h; cases h

theorem run_keeps_regsInv {k : Nat} {s t : State} (hinv : RegsInv s.regs) (h : Host.Core.run core k s = .next t) :
    RegsInv t.regs := by
  induction k generalizing s with
  | zero => cases h; exact hinv
  | succ k ih =>
    obtain ⟨s', hs, hrun⟩ := exists_step_of_run_succ h
    exact ih (registerInvariantKept s s' hinv hs) hrun

/-- Settles O57: reset has the invariant, whatever the parameters, the bus and the inputs, and every step keeps it. -/
theorem registerInvariantOnEveryRun : Obligations.RegisterInvariantOnEveryRun := by
  unfold Obligations.RegisterInvariantOnEveryRun
  intro P b xs k t h
  obtain ⟨hgain, harmed, -⟩ :=
    run_keeps_regsInv (s := { State.reset with params := P, bus := b, inputs := xs }) registerInvariantAtReset h
  exact ⟨hgain, harmed⟩

end Sys2Proof.Machine

/-!
PROOFS. Which operation writes which register, and what a host operation does to the ports (spec/10_state.md,
spec/45_sample_cache.md, spec/20_memory.md). Each statement is read off the endings of an operation: only CONFIGURE,
CONSUME, a START that has started and a POLL that commits need a word.
-/

namespace Sys2Proof.Machine

/-! ### The masks and the ceilings (R22, R34, R35) -/

/-- Settles O38: a committed POLL keeps them, and but for CONFIGURE no other ending writes them. -/
theorem onlyConfigureWritesMasksAndCeilings : Obligations.OnlyConfigureWritesMasksAndCeilings := by
  unfold Obligations.OnlyConfigureWritesMasksAndCeilings
  intro i s t h hi
  cases ends_of_exec h with
  | configured cm am ceil => exact absurd rfl (hi cm am ceil)
  | committed st raw =>
    obtain ⟨hcm, ham, hgcw, -⟩ := pollCommit_fields s.regs st raw
    exact ⟨hcm, ham, hgcw⟩
  | _ => exact ⟨rfl, rfl, rfl⟩

/-! ### The gain registers (R24) -/

/-- R94: BUSY and CHANNEL_READY are codes 1 and 2. -/
theorem rspStatus_pollResponse (r : Regs) (st : StatusBits) (raw : Raw) :
    rspStatus (pollResponse r st raw).word = 1 ∨ rspStatus (pollResponse r st raw).word = 2 := by
  rw [rspStatus_word]
  rcases pollResponse_status r st raw with h | h <;> rw [h]
  · exact .inl rfl
  · exact .inr rfl

/-- Settles O39: only a committed POLL writes the gain word, and there only the nibble of an auto channel echoed. -/
theorem gainRegistersWrittenByPollOnly : Obligations.GainRegistersWrittenByPollOnly := by
  unfold Obligations.GainRegistersWrittenByPollOnly
  intro i s t h hi
  cases ends_of_exec h with
  | configured cm am ceil => exact absurd rfl (hi cm am ceil)
  | committed st raw nxt b b' b'' _ _ hstatus hready hresult =>
    obtain ⟨-, -, -, hgsw, harmed, -⟩ := pollCommit_fields s.regs st raw
    have hgs (n : Chan) : (pollCommit s.regs st raw).gs n = nibRead (adjustedGsw s.regs st.ch raw) n := by
      rw [Regs.gs, hgsw]
    cases hauto : maskBit s.regs.am st.ch with
    | false => exact .inl (hgsw.trans (if_neg (Bool.eq_false_iff.mp hauto)))
    | true =>
      refine .inr ⟨rfl, harmed, st, raw, b, b', _, hstatus, hready, hresult, hauto, rfl, rspStatus_pollResponse _ _ _,
        ?echoed, fun n hn => ?other⟩
      case echoed => rw [State.respond_regs, hgs, nibRead_adjustedGsw, if_pos rfl]
      case other => rw [State.respond_regs, hgs, nibRead_adjustedGsw, if_neg hn]
  | _ => exact .inl rfl

/-! ### The flags (R28, R29) -/

/-- Settles O40: CONFIGURE and CONSUME clear `ready`; a committed POLL sets it together with CHANNEL_READY, or leaves it. -/
theorem readyFlagWriters : Obligations.ReadyFlagWriters := by
  unfold Obligations.ReadyFlagWriters
  intro i s t h
  cases ends_of_exec h with
  | configured cm am ceil => exact ⟨nofun, fun _ _ => .inr ⟨cm, am, ceil, rfl⟩⟩
  | consumed => exact ⟨nofun, fun _ _ => .inl rfl⟩
  | committed st raw _ _ _ _ _ hready =>
    refine ⟨fun _ hset => ⟨rfl, _, rfl, ?channelReady⟩, fun hset => absurd (hset.symm.trans hready) nofun⟩
    obtain ⟨-, -, -, -, -, hvalid | hovf⟩ := pollCommit_fields s.regs st raw
    · obtain ⟨-, -, -, hrsp⟩ := hvalid
      rw [hrsp, rspStatus_word]
      rfl
    · obtain ⟨hkept, -⟩ := hovf
      exact absurd (hset.symm.trans (hkept.trans hready)) nofun
  | _ => exact ⟨fun hclear hset => absurd (hset.symm.trans hclear) nofun,
      fun hset hclear => absurd (hset.symm.trans hclear) nofun⟩

/-- R193: when START_CONV is done, its primitives are the last thing on the bus. -/
theorem Bus.startPrims_suffix_of_done {P : Params} {c : Chan} {g : Code} {b b' : Bus}
    (h : b.startConv P c g = .done () b') : startPrims P c g <:+ b'.trace := by
  have htrace := Bus.startConv_trace P c g b
  rw [h] at htrace
  exact ⟨b.trace, htrace.symm⟩

/-- Settles O41: a START that has started and a POLL that commits end with a START_CONV that is done. -/
theorem armedFlagWriters : Obligations.ArmedFlagWriters := by
  unfold Obligations.ArmedFlagWriters
  intro i s t h
  cases ends_of_exec h with
  | configured cm am ceil => exact ⟨nofun, fun _ _ => ⟨cm, am, ceil, rfl⟩⟩
  | started c r b _ hdone =>
    exact ⟨fun _ _ => ⟨.inl rfl, c, _, Bus.startPrims_suffix_of_done hdone⟩, nofun⟩
  | committed st raw nxt b b' b'' _ _ _ _ _ _ hdone =>
    obtain ⟨-, -, -, -, harmed, -⟩ := pollCommit_fields s.regs st raw
    exact ⟨fun _ _ => ⟨.inr rfl, nxt, _, Bus.startPrims_suffix_of_done hdone⟩,
      fun _ hclear => absurd (hclear.symm.trans harmed) nofun⟩
  | _ => exact ⟨fun hclear hset => absurd (hset.symm.trans hclear) nofun,
      fun hset hclear => absurd (hset.symm.trans hclear) nofun⟩

/-! ### The cache (R38, R245) -/

/-- Settles O42: a committed POLL has found `ready` 0, and where it writes the cache it sets `ready`. -/
theorem cacheKeptUntilConsumed : Obligations.CacheKeptUntilConsumed := by
  unfold Obligations.CacheKeptUntilConsumed
  intro i s t h hi
  cases ends_of_exec h with
  | configured cm am ceil => exact absurd rfl (hi cm am ceil)
  | committed st raw _ _ _ _ _ hready =>
    refine ⟨fun hset => absurd (hset.symm.trans hready) nofun, fun hne => ⟨rfl, hready, ?_⟩⟩
    obtain ⟨-, -, -, -, -, hvalid | hovf⟩ := pollCommit_fields s.regs st raw
    · obtain ⟨hset, -⟩ := hvalid
      exact hset
    · obtain ⟨-, -, hcache, -⟩ := hovf
      exact absurd hcache hne
  | _ => exact ⟨fun _ => rfl, fun hne => absurd rfl hne⟩

/-! ### The bus and the ports (R62, R74, R76) -/

/-- Settles O43: the six answer on the bus as it was. -/
theorem accessorsTouchNoBus : Obligations.AccessorsTouchNoBus := by
  unfold Obligations.AccessorsTouchNoBus
  intro i s t hhost hstart hpoll h
  cases ends_of_exec h with
  | configured => rfl
  | answered => rfl
  | consumed => rfl
  | illegal => rfl
  | noChannel => rfl
  | commError _ hi => exact absurd hi (not_or.mpr ⟨hstart, hpoll⟩)
  | started => exact absurd rfl hstart
  | heldOff => exact absurd rfl hpoll
  | committed => exact absurd rfl hpoll
  | stuck _ hi =>
    have hbus : i.isHostOp ≠ false := ne_of_eq_of_ne hhost nofun
    exact absurd hi (not_or.mpr ⟨hstart, not_or.mpr ⟨hpoll, hbus⟩⟩)
  | handedBack _ hi => exact absurd (hhost.symm.trans hi) nofun

/-- Settles O47: a host operation responds, raises or hangs, and the first two leave the port free as it was. -/
theorem hostOperationsAnswerOrAreStuck : Obligations.HostOperationsAnswerOrAreStuck := by
  unfold Obligations.HostOperationsAnswerOrAreStuck
  intro i s hhost hfree
  obtain ⟨t, h, hends⟩ := exec_ends i s
  refine ⟨t, h, ?_⟩
  rcases hends.hostOp_cases hhost with ⟨regs, r, b, -, rfl⟩ | ⟨e, b, rfl⟩ | ⟨x, p, q, b, rfl⟩
  · exact .inl ⟨rfl, hfree⟩
  · exact .inl ⟨rfl, hfree⟩
  · exact .inr ⟨rfl, rfl, rfl⟩

/-- Settles O20: POLL and START test the mask first and raise on the bus as it was. -/
theorem emptyMaskAnswersNoChannel : Obligations.EmptyMaskAnswersNoChannel := by
  unfold Obligations.EmptyMaskAnswersNoChannel
  intro s hcm
  rw [exec_poll_of_cm_zero hcm, exec_start_of_cm_zero hcm, State.raise_own_bus, Exc.response_noChannelSelected]
  exact ⟨rfl, rfl⟩

end Sys2Proof.Machine

/-!
PROOFS. Bus operations (spec/43_bus_operations.md): each completes on ok answers, and stops at the first primitive that
is answered err or not at all. The two stops are treated as one, `Stop`: they issue the same primitives and leave the
same bus, and differ only in how the operation ends.
-/

namespace Sys2Proof.Machine

/-! ### Operations that complete (R190 to R193) -/

/-- The bus after a REG_READ that is answered ok: of the device only the selector has changed (R69 b). -/
def Bus.afterRead (P : Params) (ptr : Byte) (b : Bus) (rest : List BusReply) : Bus :=
  { script := rest, drawn := b.drawn, trace := b.trace ++ readPrims P ptr
    dev := { b.dev with selector := ptr, inbox := [] } }

/-- The bus after a START_CONV that is answered ok. -/
def Bus.afterStart (P : Params) (c : Chan) (g : Code) (b : Bus) (rest : List BusReply) : Bus :=
  { script := rest, drawn := b.drawn, trace := b.trace ++ startPrims P c g, dev := b.dev.steps P (startPrims P c g) }

section
variable (P : Params) {b : Bus} {ds : List Reg16} {rest : List BusReply}

theorem Bus.statusRead_ok (h : b.script = ds.map .ok ++ rest) (hl : ds.length = 4) :
    b.statusRead P = .done (statusOf (ds.getD 3 0#16)) (b.afterRead P P.ptrConfig rest) := by
  rw [Bus.statusRead, Bus.regRead_ok P _ _ b ds rest h hl, BusOut.andThen_done, Device.steps_readPrims, Bus.afterRead]

theorem Bus.resultRead_ok (h : b.script = ds.map .ok ++ rest) (hl : ds.length = 4) :
    b.resultRead P = .done (rawOf (ds.getD 3 0#16)) (b.afterRead P P.ptrResult rest) := by
  rw [Bus.resultRead, Bus.regRead_ok P _ _ b ds rest h hl, BusOut.andThen_done, Device.steps_readPrims, Bus.afterRead]

theorem Bus.startConv_done (c : Chan) (g : Code) (h : b.script = ds.map .ok ++ rest) (hl : ds.length = 5) :
    b.startConv P c g = .done () (b.afterStart P c g rest) :=
  Bus.startConv_ok P c g b ds rest h hl

end

/-- R69 a, R101: the device holds the channel and the gain code of the config byte. -/
theorem echo_configMsb (P : Params) (c : Chan) (g : Code) (d : Device)
    (h : d.config = (configMsb P c g).extractLsb' 0 7 ++ P.cfgLsb) : echoChan d = c ∧ echoGain d = g := by
  constructor
  · rw [echoChan, h, BitVec.extractLsb'_append_eq_of_le (by decide), BitVec.extractLsb'_extractLsb'_of_le (by decide),
      configMsb, BitVec.extractLsb'_append_eq_of_le (by decide), BitVec.extractLsb'_append_eq_of_le (by decide)]
    exact BitVec.extractLsb'_append_eq_right
  · rw [echoGain, h, BitVec.extractLsb'_append_eq_of_le (by decide), BitVec.extractLsb'_extractLsb'_of_le (by decide),
      configMsb, BitVec.extractLsb'_append_eq_of_le (by decide)]
    exact BitVec.extractLsb'_append_eq_right

/-- The device after a START_CONV that is answered ok: it holds channel and gain code and converts; its result register is
as it was. -/
theorem Device.steps_startPrims_echo (P : Params) (c : Chan) (g : Code) (d : Device) :
    echoChan (d.steps P (startPrims P c g)) = c ∧ echoGain (d.steps P (startPrims P c g)) = g ∧
    (d.steps P (startPrims P c g)).done = false ∧ (d.steps P (startPrims P c g)).result = d.result := by
  rw [Device.steps_startPrims]
  obtain ⟨hch, hgain⟩ := echo_configMsb P c g
    { d with
      selector := P.ptrConfig, inbox := [], config := (configMsb P c g).extractLsb' 0 7 ++ P.cfgLsb, done := false } rfl
  exact ⟨hch, hgain, rfl, rfl⟩

/-- R103: the status fields are those of the first byte received. -/
theorem statusOf_append_bytes (b0 b1 : Byte) :
    statusOf (b0 ++ b1) = { devReady := b0.getLsbD 7, ch := b0.extractLsb' 4 3, gain := b0.extractLsb' 1 3 } := by
  have hready : (b0 ++ b1).getLsbD 15 = b0.getLsbD 7 := by simp only [BitVec.getLsbD_append]; rfl
  rw [statusOf, hready, BitVec.extractLsb'_append_eq_of_le (by decide), BitVec.extractLsb'_append_eq_of_le (by decide)]

/-- Settles O33: the four ok answers, the fourth with the two bytes. -/
theorem statusReadResult : Obligations.StatusReadResult := by
  unfold Obligations.StatusReadResult
  intro s x0 x1 x2 b0 b1 rest h
  have hdone := Bus.statusRead_ok s.params (ds := [x0, x1, x2, b0 ++ b1]) h rfl
  rw [exec, execStatusRead, hdone, ← statusOf_append_bytes]
  rfl

/-- Settles O34: the four ok answers, the fourth with the two bytes. -/
theorem resultReadResult : Obligations.ResultReadResult := by
  unfold Obligations.ResultReadResult
  intro s x0 x1 x2 b0 b1 rest h
  have hdone := Bus.resultRead_ok s.params (ds := [x0, x1, x2, b0 ++ b1]) h rfl
  rw [exec, execResultRead, hdone]
  rfl

/-- Settles O35: the five ok answers, and what the device makes of the five primitives. -/
theorem startConvResult : Obligations.StartConvResult := by
  unfold Obligations.StartConvResult
  intro s c g ds rest h hl
  refine ⟨s.bus.dev.steps s.params (startPrims s.params c g), ?_, Device.steps_startPrims_echo s.params c g s.bus.dev⟩
  rw [exec, execStartConv, Bus.startConv_done s.params c g h hl]
  rfl

/-! ### Operations that stop (R62, R63, R194) -/

/-- The two ways a primitive can end its bus operation early. -/
inductive Stop where
  /-- Answered err: the operation fails. -/
  | err (k : FailKind)
  /-- Never answered: the operation is stuck. -/
  | never

/-- The reply that stops. -/
def Stop.reply (acted : Bool) : Stop → BusReply
  | .err _ => .err acted
  | .never => .never acted

/-- Whether a primitive can stop so: an err stops every primitive but a WRITE (R194), with the failure it stands for. -/
def Stop.Stops (p : BusPrim) : Stop → Prop
  | .err k => p.failKind = some k
  | .never => True

/-- How a bus operation ends that was stopped. -/
def Stop.out {α : Type} (t : Txn) (p : BusPrim) (b : Bus) : Stop → BusOut α
  | .err k => .failed t k b
  | .never => .stuck t p b

@[simp] theorem Stop.andThen_out {α β : Type} (x : Stop) (t : Txn) (p : BusPrim) (b : Bus) (f : α → Bus → BusOut β) :
    (x.out t p b : BusOut α).andThen f = x.out t p b := by
  cases x <;> rfl

/-- The bus after primitive `p` has stopped the sequence `ps` at place `n`. -/
def Bus.stopped (P : Params) (ps : List BusPrim) (n : Nat) (p : BusPrim) (acted : Bool) (b : Bus)
    (rest : List BusReply) : Bus :=
  { script := rest, drawn := b.drawn, trace := b.trace ++ ps.take (n + 1)
    dev := (b.dev.steps P (ps.take n)).step P p acted }

section
variable (P : Params) {b : Bus} {ds : List Reg16} {rest : List BusReply} {acted : Bool} {x : Stop} {p : BusPrim}

/-- A sequence of primitives answered ok up to the one that stops. -/
theorem Bus.calls_stop (t : Txn) {ps : List BusPrim} (d0 : Reg16)
    (h : b.script = ds.map .ok ++ x.reply acted :: rest) (hp : ps[ds.length]? = some p) (hx : x.Stops p) :
    b.calls P t ps d0 = x.out t p (b.stopped P ps ds.length p acted rest) := by
  cases x with
  | err k => exact Bus.calls_err_at P t ps p ds acted rest d0 b k h hp hx
  | never => exact Bus.calls_never_at P t ps p ds acted rest d0 b h hp

theorem Bus.statusRead_stop (h : b.script = ds.map .ok ++ x.reply acted :: rest)
    (hp : (readPrims P P.ptrConfig)[ds.length]? = some p) (hx : x.Stops p) :
    b.statusRead P = x.out .statusRead p (b.stopped P (readPrims P P.ptrConfig) ds.length p acted rest) := by
  rw [Bus.statusRead, Bus.regRead, Bus.calls_stop P _ _ h hp hx, Stop.andThen_out]

theorem Bus.resultRead_stop (h : b.script = ds.map .ok ++ x.reply acted :: rest)
    (hp : (readPrims P P.ptrResult)[ds.length]? = some p) (hx : x.Stops p) :
    b.resultRead P = x.out .resultRead p (b.stopped P (readPrims P P.ptrResult) ds.length p acted rest) := by
  rw [Bus.resultRead, Bus.regRead, Bus.calls_stop P _ _ h hp hx, Stop.andThen_out]

theorem Bus.startConv_stop {c : Chan} {g : Code} (h : b.script = ds.map .ok ++ x.reply acted :: rest)
    (hp : (startPrims P c g)[ds.length]? = some p) (hx : x.Stops p) :
    b.startConv P c g = x.out .startConv p (b.stopped P (startPrims P c g) ds.length p acted rest) := by
  rw [Bus.startConv, Bus.calls_stop P _ _ h hp hx, Stop.andThen_out]

/-- R194: a WRITE answered err is over like one answered ok. -/
theorem Bus.call_writeByte_err (t : Txn) (x : Byte) (h : b.script = .err acted :: rest) :
    b.call P t (.writeByte x) = .done 0#16
      { script := rest, drawn := b.drawn, trace := b.trace ++ [.writeByte x]
        dev := b.dev.step P (.writeByte x) acted } := by
  simp [Bus.call, Bus.draw_cons b _ _ h, replyAnswer, Bus.after, replyEffect, BusPrim.failKind]

end

/-- R190: the places of a REG_READ where an err is a failure, and which. -/
theorem exists_readPrim_of_failKind (P : Params) (ptr : Byte) {n : Nat} {k : FailKind}
    (h : n = 0 ∧ k = .onBegin ∨ n = 2 ∧ k = .onEnd ∨ n = 3 ∧ k = .onCount) :
    ∃ p, (readPrims P ptr)[n]? = some p ∧ p.failKind = some k := by
  rcases h with ⟨rfl, rfl⟩ | ⟨rfl, rfl⟩ | ⟨rfl, rfl⟩
  all_goals exact ⟨_, rfl, rfl⟩

/-- R193: the places of a START_CONV where an err is a failure, and which. -/
theorem exists_startPrim_of_failKind (P : Params) (c : Chan) (g : Code) {n : Nat} {k : FailKind}
    (h : n = 0 ∧ k = .onBegin ∨ n = 4 ∧ k = .onEnd) :
    ∃ p, (startPrims P c g)[n]? = some p ∧ p.failKind = some k := by
  rcases h with ⟨rfl, rfl⟩ | ⟨rfl, rfl⟩
  all_goals exact ⟨_, rfl, rfl⟩

/-- Settles O36: each place names its primitive and its failure, and the operation stops there. -/
theorem busOperationFailures : Obligations.BusOperationFailures := by
  unfold Obligations.BusOperationFailures
  intro P b ds acted rest k c g h
  refine ⟨fun hread => ⟨?status, ?result⟩, fun hstart => ?start, fun x t hnil => ?write⟩
  case status =>
    obtain ⟨p, hp, hk⟩ := exists_readPrim_of_failKind P P.ptrConfig hread
    exact ⟨_, Bus.statusRead_stop P (x := .err k) h hp hk, rfl, rfl⟩
  case result =>
    obtain ⟨p, hp, hk⟩ := exists_readPrim_of_failKind P P.ptrResult hread
    exact ⟨_, Bus.resultRead_stop P (x := .err k) h hp hk, rfl, rfl⟩
  case start =>
    obtain ⟨p, hp, hk⟩ := exists_startPrim_of_failKind P c g hstart
    exact ⟨_, Bus.startConv_stop P (x := .err k) h hp hk, rfl, rfl⟩
  case write =>
    subst hnil
    exact ⟨_, Bus.call_writeByte_err P t x h, rfl, rfl⟩

/-! ### The device behind an operation that stops (R69, spec/93 G7) -/

/-- No primitive writes the result register. -/
theorem Device.step_result (P : Params) (p : BusPrim) (acted : Bool) (d : Device) :
    (d.step P p acted).result = d.result := by
  cases p with
  | endTxn =>
    cases acted with
    | false => rfl
    | true =>
      simp only [Device.step, if_true, Device.accept]
      split
      · rfl
      · split <;> rfl
      · rfl
  | _ => rfl

theorem Device.steps_result (P : Params) (ps : List BusPrim) (d : Device) : (d.steps P ps).result = d.result := by
  induction ps generalizing d with
  | nil => rfl
  | cons p ps ih => exact (ih _).trans (Device.step_result P p true d)

/-- The config register and the ready bit change only where the device takes a transaction that ends. -/
theorem Device.step_config_done (P : Params) {p : BusPrim} {acted : Bool} (h : p = .endTxn → acted = false)
    (d : Device) : (d.step P p acted).config = d.config ∧ (d.step P p acted).done = d.done := by
  cases p with
  | endTxn => rw [h rfl]; exact ⟨rfl, rfl⟩
  | _ => exact ⟨rfl, rfl⟩

theorem Device.steps_config_done (P : Params) {ps : List BusPrim} (h : .endTxn ∉ ps) (d : Device) :
    (d.steps P ps).config = d.config ∧ (d.steps P ps).done = d.done := by
  induction ps generalizing d with
  | nil => exact ⟨rfl, rfl⟩
  | cons p ps ih =>
    obtain ⟨hp, hps⟩ := List.ne_and_not_mem_of_not_mem_cons h
    obtain ⟨hc, hd⟩ := ih hps (d.step P p true)
    obtain ⟨hc', hd'⟩ := Device.step_config_done P (acted := true) (fun e => absurd e.symm hp) d
    exact ⟨hc.trans hc', hd.trans hd'⟩

/-- A START_CONV ends its transaction with its last primitive. -/
theorem endTxn_not_mem_take_startPrims (P : Params) (c : Chan) (g : Code) {n : Nat} (hn : n ≤ 4) :
    .endTxn ∉ (startPrims P c g).take n := by
  have hfour : .endTxn ∉ (startPrims P c g).take 4 := by simp [startPrims]
  exact fun h => hfour ((List.take_subset_take_left _ hn) h)

end Sys2Proof.Machine

/-!
PROOFS. START and POLL under a settled bus (spec/44_conversion_state_machine.md). A POLL goes through three bus
operations: after four ok answers it stands before its RESULT_READ, after eight before its START_CONV. A completed POLL
and a stopped one are both read off these two places.
-/

namespace Sys2Proof.Machine

/-! ### START (R212) -/

theorem exec_start_of_next {s : State} {c : Chan} (hcm : s.regs.cm ≠ 0#8) (hc : next s.regs.cm none = some c) :
    exec .start s = .next (startAt s c) := by
  rw [exec, execStart, startOp, if_neg hcm, hc]

/-- Settles O21: NEXT picks the lowest enabled channel, and the five ok answers complete its START_CONV. -/
theorem startCompletes : Obligations.StartCompletes := by
  unfold Obligations.StartCompletes
  intro s c ds rest hcm hc h hl
  refine ⟨fun n => maskBit_of_lt_next hc, next_enabled _ _ c hc, _, ?answer,
    Device.steps_startPrims_echo s.params c (s.regs.gs c) s.bus.dev⟩
  case answer =>
    rw [exec_start_of_next hcm hc, startAt, Bus.startConv_done s.params c _ h hl]
    rfl

/-- Settles O22: the START_CONV stops at its begin or its end; before that no transaction ends, so only the last primitive
can have changed what the device holds. -/
theorem startFailsOnBusError : Obligations.StartFailsOnBusError := by
  unfold Obligations.StartFailsOnBusError
  intro s c ds acted rest k hcm hc h hplace
  obtain ⟨p, hp, hk⟩ := exists_startPrim_of_failKind s.params c (s.regs.gs c) hplace
  have hfour : ds.length ≤ 4 := by omega
  refine ⟨(s.bus.stopped s.params (startPrims s.params c (s.regs.gs c)) ds.length p acted rest).dev, ?answer, ?result,
    fun hacted => ?config⟩
  case answer =>
    rw [exec_start_of_next hcm hc, startAt, Bus.startConv_stop s.params (x := .err k) h hp hk]
    rfl
  case result => exact (Device.step_result _ _ _ _).trans (Device.steps_result _ _ _)
  case config =>
    obtain ⟨hconf, hdone⟩ :=
      Device.steps_config_done s.params (endTxn_not_mem_take_startPrims s.params c (s.regs.gs c) hfour) s.bus.dev
    obtain ⟨hconf', hdone'⟩ := Device.step_config_done s.params (p := p) (fun _ => hacted)
      (s.bus.dev.steps s.params ((startPrims s.params c (s.regs.gs c)).take ds.length))
    exact ⟨hconf'.trans hconf, hdone'.trans hdone⟩

/-! ### POLL, operation by operation (R213) -/

theorem exec_poll_of_not_ready {s : State} (hcm : s.regs.cm ≠ 0#8) (hready : s.regs.ready = false) :
    exec .poll s = .next (pollBus s) := by
  rw [exec, execPoll, pollOp, if_neg hcm, hready, if_neg Bool.false_ne_true]

/-- R213 step 2: BUSY in the response word. -/
theorem Response.word_busy : ({ status := .busy } : Response).word = 0x20000000#32 := by decide

/-- Settles O24: four ok answers complete the STATUS_READ, and the ready bit is 0. -/
theorem pollBusyWhileConverting : Obligations.PollBusyWhileConverting := by
  unfold Obligations.PollBusyWhileConverting
  intro s ds rest hcm hready h hl hbusy
  rw [exec_poll_of_not_ready hcm hready, pollBus, Bus.statusRead_ok s.params h hl]
  simp only [State.onBus, hbusy, Bool.false_eq_true, if_false, State.respond, Response.word_busy, Bus.afterRead]

section
variable {s : State} {ds ds₁ ds₂ : List Reg16} {r : List BusReply} {nxt : Chan}

/-- R213 step 3: after four ok answers, the ready bit seen. -/
theorem pollBus_of_four_ok (h : s.bus.script = ds₁.map .ok ++ r) (h₁ : ds₁.length = 4)
    (hdev : (statusOf (ds₁.getD 3 0#16)).devReady = true) :
    pollBus s = s.onBus true ((s.bus.afterRead s.params s.params.ptrConfig r).resultRead s.params)
      (pollFinish s (statusOf (ds₁.getD 3 0#16))) := by
  rw [pollBus, Bus.statusRead_ok s.params h h₁]
  simp only [State.onBus, hdev, if_true]

/-- R213 step 6: after eight ok answers, the sample fetched. -/
theorem pollBus_of_eight_ok (h : s.bus.script = ds₁.map .ok ++ (ds₂.map .ok ++ r)) (h₁ : ds₁.length = 4)
    (h₂ : ds₂.length = 4) (hdev : (statusOf (ds₁.getD 3 0#16)).devReady = true)
    (hn : next s.regs.cm (some (statusOf (ds₁.getD 3 0#16)).ch) = some nxt) :
    pollBus s = s.onBus true
      (((s.bus.afterRead s.params s.params.ptrConfig (ds₂.map .ok ++ r)).afterRead s.params s.params.ptrResult r).startConv
        s.params nxt
        (nibRead (adjustedGsw s.regs (statusOf (ds₁.getD 3 0#16)).ch (rawOf (ds₂.getD 3 0#16))) nxt))
      fun _ b => s.respond (pollCommit s.regs (statusOf (ds₁.getD 3 0#16)) (rawOf (ds₂.getD 3 0#16)))
        (pollResponse s.regs (statusOf (ds₁.getD 3 0#16)) (rawOf (ds₂.getD 3 0#16))) b := by
  rw [pollBus_of_four_ok h h₁ hdev, Bus.resultRead_ok s.params (b := s.bus.afterRead s.params _ _) rfl h₂]
  simp only [State.onBus, pollFinish, hn]

end

/-- A list of at least `n` entries, cut after the first `n`. -/
theorem exists_append_of_le_length {α : Type} {n : Nat} {l : List α} (h : n ≤ l.length) :
    ∃ l₁ l₂, l = l₁ ++ l₂ ∧ l₁.length = n :=
  ⟨l.take n, l.drop n, (List.take_append_drop n l).symm, by rw [List.length_take]; omega⟩

/-! ### POLL completes (R213, R216, R217) -/

/-- A POLL whose thirteen primitives are all answered ok commits; the device holds the next channel at its updated code. -/
theorem exec_poll_of_all_ok {s : State} {ds : List Reg16} {rest : List BusReply} {st : StatusBits} {raw : Raw} {nxt : Chan}
    (hcm : s.regs.cm ≠ 0#8) (hready : s.regs.ready = false) (h : s.bus.script = ds.map .ok ++ rest) (hl : ds.length = 13)
    (hst : st = statusOf (ds.getD 3 0#16)) (hraw : raw = rawOf (ds.getD 7 0#16)) (hdev : st.devReady = true)
    (hn : next s.regs.cm (some st.ch) = some nxt) :
    ∃ d : Device,
      exec .poll s = .next (s.respond (pollCommit s.regs st raw) (pollResponse s.regs st raw)
        { script := rest, drawn := s.bus.drawn
          trace := s.bus.trace ++ pollPrims s.params nxt (nibRead (adjustedGsw s.regs st.ch raw) nxt), dev := d }) ∧
      echoChan d = nxt ∧ echoGain d = nibRead (adjustedGsw s.regs st.ch raw) nxt ∧ d.done = false ∧
      d.result = s.bus.dev.result := by
  obtain ⟨ds₁, ds', rfl, h₁⟩ := exists_append_of_le_length (n := 4) (l := ds) (by omega)
  obtain ⟨ds₂, ds₃, rfl, h₂⟩ := exists_append_of_le_length (n := 4) (l := ds')
    (by rw [List.length_append] at hl; omega)
  have h₃ : ds₃.length = 5 := by rw [List.length_append, List.length_append] at hl; omega
  have hst₁ : statusOf (ds₁.getD 3 0#16) = st := by rw [hst, List.getD_append _ _ _ _ (by omega)]
  have hraw₂ : rawOf (ds₂.getD 3 0#16) = raw := by
    rw [hraw, List.getD_append_right _ _ _ _ (by omega), List.getD_append _ _ _ _ (by omega), h₁]
  have hscript : s.bus.script = ds₁.map .ok ++ (ds₂.map .ok ++ (ds₃.map .ok ++ rest)) := by simpa using h
  have hrun := pollBus_of_eight_ok hscript h₁ h₂ (hst₁.symm ▸ hdev) (hst₁.symm ▸ hn)
  rw [hst₁, hraw₂, Bus.startConv_done s.params nxt _ (b := Bus.afterRead _ _ (Bus.afterRead _ _ _ _) _) rfl h₃] at hrun
  refine ⟨_, ?answer,
    Device.steps_startPrims_echo s.params nxt _ { s.bus.dev with selector := s.params.ptrResult, inbox := [] }⟩
  case answer =>
    rw [exec_poll_of_not_ready hcm hready, hrun]
    simp only [State.onBus, Bus.afterStart, Bus.afterRead, pollPrims, List.append_assoc]

theorem pollCommit_of_valid {r : Regs} {st : StatusBits} {raw : Raw}
    (hvalid : (adjust r st.ch (r.gs st.ch) raw).2 = false) :
    pollCommit r st raw =
      { r with gsw := adjustedGsw r st.ch raw, ready := true, armed := true
               cache := { ch := st.ch, vq := convert raw st.gain, gain := st.gain } } ∧
    pollResponse r st raw = { status := .channelReady, v := true, ch := st.ch } := by
  simp [pollCommit, pollResponse, validOf, hvalid]

theorem pollCommit_of_overflow {r : Regs} {st : StatusBits} {raw : Raw}
    (hovf : (adjust r st.ch (r.gs st.ch) raw).2 = true) :
    pollCommit r st raw = { r with gsw := adjustedGsw r st.ch raw, armed := true } ∧
    pollResponse r st raw = { status := .busy } := by
  simp [pollCommit, pollResponse, validOf, hovf]

/-- R217: an overflow stores code 0. -/
theorem adjustedGsw_of_overflow {r : Regs} {ch : Chan} {raw : Raw} (hauto : maskBit r.am ch = true)
    (hmag : 2045 ≤ raw.toInt.natAbs) : adjustedGsw r ch raw = nibWrite r.gsw ch 0#3 := by
  rw [adjustedGsw, if_pos hauto, adjust_auto r ch _ raw hauto, abs12_toNat,
    adjustAuto_of_overflow ((band_overflow_iff _).mpr hmag)]

/-- Settles O25: a fixed channel or a magnitude below 2045 gives no overflow. -/
theorem pollSurfacesValidSample : Obligations.PollSurfacesValidSample := by
  unfold Obligations.PollSurfacesValidSample
  intro s ds rest st raw nxt gsw' hcm hready h hl hst hraw hdev hn hgsw hcase
  have hvalid : (adjust s.regs st.ch (s.regs.gs st.ch) raw).2 = false := by
    rw [← Bool.not_eq_true, adjust_overflow_iff]
    rintro ⟨hauto, hmag⟩
    rcases hcase with hfixed | hlt
    · exact absurd (hauto.symm.trans hfixed) nofun
    · omega
  obtain rfl : gsw' = adjustedGsw s.regs st.ch raw := hgsw
  obtain ⟨d, hexec, hecho⟩ := exec_poll_of_all_ok hcm hready h hl hst hraw hdev hn
  obtain ⟨hregs, hrsp⟩ := pollCommit_of_valid hvalid
  rw [hregs, hrsp] at hexec
  exact ⟨d, hexec, hecho⟩

/-- Settles O26: ADJUST gives code 0 and the overflow flag. -/
theorem pollDiscardsOverflow : Obligations.PollDiscardsOverflow := by
  unfold Obligations.PollDiscardsOverflow
  intro s ds rest st raw nxt gsw' hcm hready h hl hst hraw hdev hn hgsw hauto hmag
  obtain rfl : gsw' = adjustedGsw s.regs st.ch raw := hgsw.trans (adjustedGsw_of_overflow hauto hmag).symm
  obtain ⟨d, hexec, hecho⟩ := exec_poll_of_all_ok hcm hready h hl hst hraw hdev hn
  obtain ⟨hregs, hrsp⟩ := pollCommit_of_overflow ((adjust_overflow_iff _ _ (s.regs.gs st.ch) _).mpr ⟨hauto, hmag⟩)
  rw [hregs, hrsp, State.respond, Response.word_busy] at hexec
  exact ⟨d, hexec, hecho⟩

/-! ### POLL stops (R218, R261, R268, R278) -/

/-- How a host operation ends at a primitive that stops: COMM_ERROR, or stuck. -/
def State.stopWith (s : State) (t : Txn) (p : BusPrim) (pending : Bool) (b : Bus) : Stop → State
  | .err k => s.raise (.commError t k) b
  | .never => s.hang t p pending b

@[simp] theorem State.onBus_out {α : Type} (s : State) (q : Bool) (x : Stop) (t : Txn) (p : BusPrim) (b : Bus)
    (k : α → Bus → State) : s.onBus q (x.out t p b) k = s.stopWith t p q b x := by
  cases x <;> rfl

section
variable {P : Params} {c : Chan} {g : Code} {n : Nat}

/-! The primitives of a POLL, by the bus operation a place belongs to. -/

theorem pollPrims_of_lt_four (hn : n < 4) :
    (pollPrims P c g)[n]? = (readPrims P P.ptrConfig)[n]? ∧
    (pollPrims P c g).take (n + 1) = (readPrims P P.ptrConfig).take (n + 1) := by
  have hlen : (readPrims P P.ptrConfig).length = 4 := rfl
  rw [pollPrims, List.append_assoc]
  exact ⟨List.getElem?_append_left (by omega), List.take_append_of_le_length (by omega)⟩

theorem pollPrims_four_add (hn : n < 4) :
    (pollPrims P c g)[4 + n]? = (readPrims P P.ptrResult)[n]? ∧
    (pollPrims P c g).take (4 + n + 1) = readPrims P P.ptrConfig ++ (readPrims P P.ptrResult).take (n + 1) := by
  have hlen : (readPrims P P.ptrConfig).length = 4 := rfl
  have hlen' : (readPrims P P.ptrResult).length = 4 := rfl
  rw [pollPrims, List.append_assoc, Nat.add_assoc, ← hlen, List.take_length_add_append,
    List.getElem?_append_right (by omega), Nat.add_sub_cancel_left]
  exact ⟨List.getElem?_append_left (by omega), congrArg _ (List.take_append_of_le_length (by omega))⟩

theorem pollPrims_eight_add :
    (pollPrims P c g)[8 + n]? = (startPrims P c g)[n]? ∧
    (pollPrims P c g).take (8 + n + 1) =
      readPrims P P.ptrConfig ++ (readPrims P P.ptrResult ++ (startPrims P c g).take (n + 1)) := by
  have hlen : (readPrims P P.ptrConfig ++ readPrims P P.ptrResult).length = 8 := rfl
  rw [pollPrims, Nat.add_assoc, ← hlen, List.take_length_add_append, List.getElem?_append_right (by omega),
    Nat.add_sub_cancel_left, List.append_assoc]
  exact ⟨rfl, rfl⟩

end

/-- POLL, past its early answers, is stopped at place `n` of its primitives, where START_CONV(c, g) is its third operation:
no register changes, nothing follows on the bus, and `fsm` shows ResultPending if the STATUS_READ is behind it. -/
def PollStopsAt (s : State) (c : Chan) (g : Code) (n : Nat) (x : Stop) (p : BusPrim) (rest : List BusReply) : Prop :=
  ∃ d : Device, pollBus s = s.stopWith (pollTxn n) p (decide (4 ≤ n))
    { script := rest, drawn := s.bus.drawn, trace := s.bus.trace ++ (pollPrims s.params c g).take (n + 1), dev := d } x

section
variable {s : State} {ds ds₁ ds₂ : List Reg16} {x : Stop} {acted : Bool} {rest : List BusReply} {p : BusPrim}
  {c : Chan} {g : Code}

theorem pollStopsAt_of_statusRead (h : s.bus.script = ds.map .ok ++ x.reply acted :: rest) (h4 : ds.length < 4)
    (hp : (pollPrims s.params c g)[ds.length]? = some p) (hx : x.Stops p) : PollStopsAt s c g ds.length x p rest := by
  obtain ⟨hget, htake⟩ := pollPrims_of_lt_four (P := s.params) (c := c) (g := g) h4
  have htxn : pollTxn ds.length = .statusRead := if_pos h4
  rw [PollStopsAt, htake, htxn, decide_eq_false (by omega), pollBus, Bus.statusRead_stop s.params h (hget ▸ hp) hx,
    State.onBus_out]
  exact ⟨_, rfl⟩

theorem pollStopsAt_of_resultRead (h : s.bus.script = ds₁.map .ok ++ (ds.map .ok ++ x.reply acted :: rest))
    (h₁ : ds₁.length = 4) (h4 : ds.length < 4) (hdev : (statusOf (ds₁.getD 3 0#16)).devReady = true)
    (hp : (pollPrims s.params c g)[4 + ds.length]? = some p) (hx : x.Stops p) :
    PollStopsAt s c g (4 + ds.length) x p rest := by
  obtain ⟨hget, htake⟩ := pollPrims_four_add (P := s.params) (c := c) (g := g) h4
  have htxn : pollTxn (4 + ds.length) = .resultRead := by rw [pollTxn, if_neg (by omega), if_pos (by omega)]
  rw [PollStopsAt, htake, htxn, decide_eq_true (by omega), pollBus_of_four_ok h h₁ hdev,
    Bus.resultRead_stop s.params (b := Bus.afterRead _ _ _ _) rfl (hget ▸ hp) hx, State.onBus_out,
    ← List.append_assoc s.bus.trace]
  exact ⟨_, rfl⟩

theorem pollStopsAt_of_startConv
    (h : s.bus.script = ds₁.map .ok ++ (ds₂.map .ok ++ (ds.map .ok ++ x.reply acted :: rest)))
    (h₁ : ds₁.length = 4) (h₂ : ds₂.length = 4) (hdev : (statusOf (ds₁.getD 3 0#16)).devReady = true)
    (hn : next s.regs.cm (some (statusOf (ds₁.getD 3 0#16)).ch) = some c)
    (hg : g = nibRead (adjustedGsw s.regs (statusOf (ds₁.getD 3 0#16)).ch (rawOf (ds₂.getD 3 0#16))) c)
    (hp : (pollPrims s.params c g)[8 + ds.length]? = some p) (hx : x.Stops p) :
    PollStopsAt s c g (8 + ds.length) x p rest := by
  obtain ⟨hget, htake⟩ := pollPrims_eight_add (P := s.params) (c := c) (g := g) (n := ds.length)
  have htxn : pollTxn (8 + ds.length) = .startConv := by rw [pollTxn, if_neg (by omega), if_neg (by omega)]
  rw [PollStopsAt, htake, htxn, decide_eq_true (by omega), pollBus_of_eight_ok h h₁ h₂ hdev hn, ← hg,
    Bus.startConv_stop s.params (b := Bus.afterRead _ _ (Bus.afterRead _ _ _ _) _) rfl (hget ▸ hp) hx, State.onBus_out,
    ← List.append_assoc s.bus.trace, ← List.append_assoc (s.bus.trace ++ _)]
  exact ⟨_, rfl⟩

end

/-- A POLL stops at the first of its primitives that does not go on. -/
theorem pollStopsAt_of_stop {s : State} {ds : List Reg16} {x : Stop} {acted : Bool} {rest : List BusReply} {st : StatusBits}
    {raw : Raw} {nxt : Chan} {p : BusPrim} (h : s.bus.script = ds.map .ok ++ x.reply acted :: rest)
    (hst : st = statusOf (ds.getD 3 0#16)) (hraw : raw = rawOf (ds.getD 7 0#16)) (hdev : 4 ≤ ds.length → st.devReady = true)
    (hn : next s.regs.cm (some st.ch) = some nxt)
    (hp : (pollPrims s.params nxt (nibRead (adjustedGsw s.regs st.ch raw) nxt))[ds.length]? = some p) (hx : x.Stops p) :
    PollStopsAt s nxt (nibRead (adjustedGsw s.regs st.ch raw) nxt) ds.length x p rest := by
  by_cases h4 : ds.length < 4
  case pos => exact pollStopsAt_of_statusRead h h4 hp hx
  case neg =>
    obtain ⟨ds₁, ds', rfl, h₁⟩ := exists_append_of_le_length (n := 4) (l := ds) (by omega)
    have hst₁ : st = statusOf (ds₁.getD 3 0#16) := by rw [hst, List.getD_append _ _ _ _ (by omega)]
    have hdev₁ : (statusOf (ds₁.getD 3 0#16)).devReady = true := hst₁ ▸ hdev (by omega)
    rw [List.length_append, h₁] at hp ⊢
    by_cases h8 : ds'.length < 4
    case pos => exact pollStopsAt_of_resultRead (by simpa using h) h₁ h8 hdev₁ hp hx
    case neg =>
      obtain ⟨ds₂, ds₃, rfl, h₂⟩ := exists_append_of_le_length (n := 4) (l := ds') (by omega)
      have hraw₂ : raw = rawOf (ds₂.getD 3 0#16) := by
        rw [hraw, List.getD_append_right _ _ _ _ (by omega), List.getD_append _ _ _ _ (by omega), h₁]
      rw [List.length_append, h₂, ← Nat.add_assoc] at hp ⊢
      exact pollStopsAt_of_startConv (by simpa using h) h₁ h₂ hdev₁ (hst₁ ▸ hn) (by rw [hst₁, hraw₂]) hp hx

/-- R261: the eight failures are those of POLL's primitives that are no WRITE. -/
theorem exists_pollPrim_of_pollFailure (P : Params) (c : Chan) (g : Code) {n : Nat} {t : Txn} {k : FailKind}
    (h : pollFailure n = some (t, k)) :
    pollTxn n = t ∧ ∃ p, (pollPrims P c g)[n]? = some p ∧ p.failKind = some k := by
  unfold pollFailure at h
  split at h
  case h_9 => cases h
  all_goals
    cases h
    exact ⟨rfl, _, rfl, rfl⟩

/-- Settles O27: the failing primitive stops the POLL, with the failure R261 names for its place. -/
theorem pollFirstErrorDecides : Obligations.PollFirstErrorDecides := by
  unfold Obligations.PollFirstErrorDecides
  intro s ds acted rest st raw nxt gsw' t k hcm hready h hfail hst hraw hdev hn hgsw
  obtain rfl : gsw' = adjustedGsw s.regs st.ch raw := hgsw
  obtain ⟨htxn, p, hp, hk⟩ := exists_pollPrim_of_pollFailure s.params nxt
    (nibRead (adjustedGsw s.regs st.ch raw) nxt) hfail
  obtain ⟨d, hstop⟩ := pollStopsAt_of_stop (x := .err k) h hst hraw hdev hn hp hk
  rw [htxn, State.stopWith, State.raise, Exc.response_commError, hready] at hstop
  rw [exec_poll_of_not_ready hcm hready, hstop]
  exact ⟨d, rfl⟩

/-- Settles O48: the unanswered primitive stops the POLL; `fsm` shows ResultPending from the fifth primitive on. -/
theorem unansweredPrimitiveSticks : Obligations.UnansweredPrimitiveSticks := by
  unfold Obligations.UnansweredPrimitiveSticks
  intro s ds acted rest st raw nxt gsw' p hcm hready h hst hraw hdev hn hgsw hp
  obtain rfl : gsw' = adjustedGsw s.regs st.ch raw := hgsw
  obtain ⟨d, hstop⟩ := pollStopsAt_of_stop (x := .never) h hst hraw hdev hn hp trivial
  have hexec := (exec_poll_of_not_ready hcm hready).trans (congrArg Host.Outcome.next hstop)
  refine ⟨d, _, rfl, hexec, rfl, rfl, fun h4 => ?pending, fun h4 => ?idle⟩
  case pending => simp only [State.fsmOut, decide_eq_true h4, if_true]
  case idle => simp only [State.fsmOut, decide_eq_false (Nat.not_le.mpr h4), Bool.false_eq_true, if_false]

end Sys2Proof.Machine

/-!
PROOFS. Bus activity whatever the environment does (spec/20_memory.md sections 1, 5 and 8). An operation issues a
beginning of a known list of primitives, and the bus it leaves is the one after those primitives, `Bus.issueAll`. What the
trace shows and how many replies are gone are then facts about lists.
-/

namespace Sys2Proof.Machine

/-! ### The bus after a list of primitives, however they are answered -/

/-- The bus after one primitive (`Bus.call_bus`). -/
def Bus.issue (P : Params) (p : BusPrim) (b : Bus) : Bus := b.draw.2.after P p b.draw.1

/-- The bus after a list of primitives. -/
def Bus.issueAll (P : Params) (ps : List BusPrim) (b : Bus) : Bus := ps.foldl (fun b p => b.issue P p) b

section
variable (P : Params) (t : Txn) (p : BusPrim) (ps qs : List BusPrim) (b : Bus)

@[simp] theorem Bus.issueAll_nil : b.issueAll P [] = b := rfl

@[simp] theorem Bus.issueAll_cons : b.issueAll P (p :: ps) = (b.issue P p).issueAll P ps := rfl

theorem Bus.issueAll_append : b.issueAll P (ps ++ qs) = (b.issueAll P ps).issueAll P qs := List.foldl_append

@[simp] theorem Bus.issue_trace : (b.issue P p).trace = b.trace ++ [p] := by
  rw [Bus.issue, Bus.after_trace, Bus.draw_trace]

@[simp] theorem Bus.issueAll_trace : (b.issueAll P ps).trace = b.trace ++ ps := by
  induction ps generalizing b with
  | nil => exact (List.append_nil _).symm
  | cons p ps ih => rw [Bus.issueAll_cons, ih, Bus.issue_trace, List.append_assoc, List.singleton_append]

/-- Whichever way one primitive ends, it leaves the bus after it. -/
theorem Bus.call_bus_issue : (b.call P t p).bus = b.issue P p := b.call_bus P t p

/-- R63, R71: however a sequence of primitives ends, a beginning of it has been issued. -/
theorem Bus.exists_prefix_calls_bus (d : Reg16) : ∃ qs, qs <+: ps ∧ (b.calls P t ps d).bus = b.issueAll P qs := by
  induction ps generalizing b d with
  | nil => exact ⟨[], List.prefix_rfl, rfl⟩
  | cons p ps ih =>
    have hcall := b.call_bus_issue P t p
    rw [Bus.calls_cons]
    rcases hc : b.call P t p with ⟨d', b'⟩ | ⟨t', k, b'⟩ | ⟨t', p', b'⟩ <;> rw [hc] at hcall
    · obtain ⟨qs, hqs, hbus⟩ := ih b' d'
      obtain rfl : b' = b.issue P p := hcall
      exact ⟨p :: qs, (List.prefix_cons_inj p).mpr hqs, hbus⟩
    · exact ⟨[p], (List.prefix_cons_inj p).mpr List.nil_prefix, hcall⟩
    · exact ⟨[p], (List.prefix_cons_inj p).mpr List.nil_prefix, hcall⟩

/-- A sequence that is done has issued all its primitives. -/
theorem Bus.calls_done_bus {d a : Reg16} {b' : Bus} (h : b.calls P t ps d = .done a b') : b' = b.issueAll P ps := by
  induction ps generalizing b d with
  | nil => cases h; rfl
  | cons p ps ih =>
    have hcall := b.call_bus_issue P t p
    rw [Bus.calls_cons] at h
    rcases hc : b.call P t p with ⟨d', b₁⟩ | ⟨t', k, b₁⟩ | ⟨t', p', b₁⟩ <;> rw [hc] at h hcall
    · obtain rfl : b₁ = b.issue P p := hcall
      exact ih _ h
    · cases h
    · cases h

end

/-! ### The three bus operations (R190 to R193) -/

/-- A result handed on in another form leaves the same bus. -/
@[simp] theorem BusOut.bus_andThen_done {α β : Type} (o : BusOut α) (f : α → β) :
    (o.andThen fun a b => .done (f a) b).bus = o.bus := by
  cases o <;> rfl

theorem BusOut.exists_of_andThen_done {α β : Type} {o : BusOut α} {f : α → β} {y : β} {b : Bus}
    (h : (o.andThen fun a b => .done (f a) b) = .done y b) : ∃ a, o = .done a b ∧ y = f a := by
  cases o with
  | done a b' => cases h; exact ⟨a, rfl, rfl⟩
  | failed => cases h
  | stuck => cases h

section
variable (P : Params) (b : Bus)

theorem Bus.exists_prefix_statusRead_bus :
    ∃ qs, qs <+: readPrims P P.ptrConfig ∧ (b.statusRead P).bus = b.issueAll P qs := by
  rw [Bus.statusRead, BusOut.bus_andThen_done]
  exact Bus.exists_prefix_calls_bus P _ _ b _

theorem Bus.exists_prefix_resultRead_bus :
    ∃ qs, qs <+: readPrims P P.ptrResult ∧ (b.resultRead P).bus = b.issueAll P qs := by
  rw [Bus.resultRead, BusOut.bus_andThen_done]
  exact Bus.exists_prefix_calls_bus P _ _ b _

theorem Bus.exists_prefix_startConv_bus (c : Chan) (g : Code) :
    ∃ qs, qs <+: startPrims P c g ∧ (b.startConv P c g).bus = b.issueAll P qs := by
  rw [Bus.startConv, BusOut.bus_andThen_done]
  exact Bus.exists_prefix_calls_bus P _ _ b _

variable {P b}

theorem Bus.statusRead_done_bus {st : StatusBits} {b' : Bus} (h : b.statusRead P = .done st b') :
    b' = b.issueAll P (readPrims P P.ptrConfig) := by
  obtain ⟨d, hd, -⟩ := BusOut.exists_of_andThen_done h
  exact Bus.calls_done_bus P _ _ b hd

theorem Bus.resultRead_done_bus {raw : Raw} {b' : Bus} (h : b.resultRead P = .done raw b') :
    b' = b.issueAll P (readPrims P P.ptrResult) := by
  obtain ⟨d, hd, -⟩ := BusOut.exists_of_andThen_done h
  exact Bus.calls_done_bus P _ _ b hd

theorem Bus.startConv_done_bus {c : Chan} {g : Code} {b' : Bus} (h : b.startConv P c g = .done () b') :
    b' = b.issueAll P (startPrims P c g) := by
  obtain ⟨d, hd, -⟩ := BusOut.exists_of_andThen_done h
  exact Bus.calls_done_bus P _ _ b hd

end

/-! ### START and POLL (R196, R222) -/

/-- What START leaves of the bus: nothing issued, or a beginning of one START_CONV of the channel NEXT picked. -/
theorem startOp_bus (s : State) :
    (startOp s).bus = s.bus ∨
    ∃ c, next s.regs.cm none = some c ∧
      ∃ qs, qs <+: startPrims s.params c (s.regs.gs c) ∧ (startOp s).bus = s.bus.issueAll s.params qs := by
  rcases startOp_cases s with ⟨-, e⟩ | ⟨-, c, hc, e⟩ <;> rw [e]
  · exact .inl rfl
  · obtain ⟨qs, hqs, hbus⟩ := Bus.exists_prefix_startConv_bus s.params s.bus c (s.regs.gs c)
    refine .inr ⟨c, hc, qs, hqs, ?_⟩
    rw [startAt, State.onBus_bus _ _ _ _ fun _ _ => rfl, hbus]

/-- What POLL leaves of the bus where it has issued something: a beginning of its two reads, or a beginning of all its
primitives with the channel NEXT picked, at its updated gain code. -/
inductive PollIssued (s : State) (b : Bus) : Prop where
  | reads (qs : List BusPrim) (hqs : qs <+: readPrims s.params s.params.ptrConfig ++ readPrims s.params s.params.ptrResult)
      (hb : b = s.bus.issueAll s.params qs)
  | start (ch nxt : Chan) (raw : Raw) (qs : List BusPrim) (hn : next s.regs.cm (some ch) = some nxt)
      (hqs : qs <+: pollPrims s.params nxt (nibRead (adjustedGsw s.regs ch raw) nxt))
      (hb : b = s.bus.issueAll s.params qs)

section
variable {s : State} {b : Bus} {st : StatusBits} {raw : Raw} {nxt : Chan}

theorem pollIssued_of_statusRead (s : State) : PollIssued s (s.bus.statusRead s.params).bus := by
  obtain ⟨qs, hqs, hbus⟩ := Bus.exists_prefix_statusRead_bus s.params s.bus
  exact .reads qs (hqs.trans (List.prefix_append _ _)) hbus

theorem pollIssued_of_resultRead (h : s.bus.statusRead s.params = .done st b) :
    PollIssued s (b.resultRead s.params).bus := by
  obtain ⟨qs, hqs, hbus⟩ := Bus.exists_prefix_resultRead_bus s.params b
  refine .reads (readPrims s.params s.params.ptrConfig ++ qs) ((List.prefix_append_right_inj _).mpr hqs) ?_
  rw [hbus, Bus.statusRead_done_bus h, Bus.issueAll_append]

theorem pollIssued_of_startConv {b' : Bus} (h : s.bus.statusRead s.params = .done st b)
    (h' : b.resultRead s.params = .done raw b') (hn : next s.regs.cm (some st.ch) = some nxt) :
    PollIssued s (b'.startConv s.params nxt (nibRead (adjustedGsw s.regs st.ch raw) nxt)).bus := by
  obtain ⟨qs, hqs, hbus⟩ :=
    Bus.exists_prefix_startConv_bus s.params b' nxt (nibRead (adjustedGsw s.regs st.ch raw) nxt)
  refine .start st.ch nxt raw
    (readPrims s.params s.params.ptrConfig ++ readPrims s.params s.params.ptrResult ++ qs) hn
    ((List.prefix_append_right_inj _).mpr hqs) ?_
  rw [hbus, Bus.resultRead_done_bus h', Bus.statusRead_done_bus h, Bus.issueAll_append, Bus.issueAll_append]

end

theorem pollOp_bus (s : State) : (pollOp s).bus = s.bus ∨ s.regs.cm ≠ 0#8 ∧ PollIssued s (pollOp s).bus := by
  rcases pollOp_cases s with ⟨-, e⟩ | ⟨-, -, e⟩ | ⟨hcm, -, hbus⟩
  · rw [e]; exact .inl rfl
  · rw [e]; exact .inl rfl
  · refine .inr ⟨hcm, ?_⟩
    have hstatus := pollIssued_of_statusRead s
    rcases hbus with ⟨t, k, b, h, e⟩ | ⟨t, p, b, h, e⟩ | ⟨st, b, h, -, e⟩ | ⟨st, b, h, -, hresult⟩
    · rw [h] at hstatus; rw [e]; exact hstatus
    · rw [h] at hstatus; rw [e]; exact hstatus
    · rw [h] at hstatus; rw [e]; exact hstatus
    · have hread := pollIssued_of_resultRead h
      rcases hresult with ⟨t, k, b', h', e⟩ | ⟨t, p, b', h', e⟩ | ⟨raw, b', nxt, h', hn, hstart⟩
      · rw [h'] at hread; rw [e]; exact hread
      · rw [h'] at hread; rw [e]; exact hread
      · have hissued := pollIssued_of_startConv h h' hn
        rcases hstart with ⟨t, k, b'', h'', e⟩ | ⟨t, p, b'', h'', e⟩ | ⟨b'', h'', e⟩
        all_goals rw [h''] at hissued; rw [e]; exact hissued

/-- The reads of a POLL are the beginning of its primitives, whatever it goes on to start. -/
theorem readPrims_prefix_pollPrims (P : Params) (c : Chan) (g : Code) :
    readPrims P P.ptrConfig ++ readPrims P P.ptrResult <+: pollPrims P c g :=
  List.prefix_append _ _

/-- A bus on which a beginning of `ps` has been issued shows that beginning. -/
theorem exists_take_of_prefix {P : Params} {b b' : Bus} {ps qs : List BusPrim} (hqs : qs <+: ps)
    (h : b' = b.issueAll P qs) : ∃ k, b'.trace = b.trace ++ ps.take k :=
  ⟨qs.length, by rw [h, Bus.issueAll_trace, ← List.prefix_iff_eq_take.mp hqs]⟩

/-- Settles O44: nothing is the beginning of any list, and POLL's reads that of any POLL. -/
theorem busActivityIsAPrefix : Obligations.BusActivityIsAPrefix := by
  unfold Obligations.BusActivityIsAPrefix
  intro s t
  constructor
  · intro h
    cases h
    rcases pollOp_bus s with hbus | ⟨-, hissued⟩
    · exact ⟨0, 0, 0, by rw [hbus, List.take_zero, List.append_nil]⟩
    · cases hissued with
      | reads qs hqs hb => exact ⟨0, 0, exists_take_of_prefix (hqs.trans (readPrims_prefix_pollPrims _ _ _)) hb⟩
      | start ch nxt raw qs _ hqs hb => exact ⟨nxt, _, exists_take_of_prefix hqs hb⟩
  · intro h
    cases h
    rcases startOp_bus s with hbus | ⟨c, -, qs, hqs, hb⟩
    · exact ⟨0, 0, 0, by rw [hbus, List.take_zero, List.append_nil]⟩
    · exact ⟨c, _, exists_take_of_prefix hqs hb⟩

/-! ### What is started (R26, R78, R193) -/

/-- Under the invariant a code at or below its channel's ceiling is at most 5. -/
theorem le_five_of_le_gc {r : Regs} {n : Chan} {g : Code} (h : GainInvAt r n) (hg : g ≤ r.gc n) : g ≤ 5#3 := by
  obtain ⟨-, -, hceil, -⟩ := h
  exact BitVec.le_trans hg hceil

/-- Settles O45: what is started is what NEXT picked, at the stored code or at the one a committed POLL would store. -/
theorem startsOnlyEnabledChannelsUnderCeiling : Obligations.StartsOnlyEnabledChannelsUnderCeiling := by
  unfold Obligations.StartsOnlyEnabledChannelsUnderCeiling
  intro i s t hinv hi h
  obtain ⟨hgain, -, -⟩ := hinv
  have hle (n : Chan) : s.regs.gs n ≤ s.regs.gc n := gs_le_gc_of_gainInvAt (hgain n)
  rcases hi with rfl | rfl <;> cases h
  · rcases startOp_bus s with hbus | ⟨c, hc, qs, hqs, hb⟩
    · exact .inl (congrArg Bus.trace hbus)
    · obtain ⟨k, htrace⟩ := exists_take_of_prefix hqs hb
      exact .inr ⟨c, _, k, next_enabled _ _ c hc, hle c, le_five_of_le_gc (hgain c) (hle c), .inr htrace⟩
  · rcases pollOp_bus s with hbus | ⟨hcm, hissued⟩
    · exact .inl (congrArg Bus.trace hbus)
    · cases hissued with
      | reads qs hqs hb =>
        obtain ⟨n, hn⟩ := exists_enabled _ hcm
        obtain ⟨k, htrace⟩ := exists_take_of_prefix (hqs.trans (readPrims_prefix_pollPrims _ n (s.regs.gs n))) hb
        exact .inr ⟨n, _, k, hn, hle n, le_five_of_le_gc (hgain n) (hle n), .inl htrace⟩
      | start ch nxt raw qs hn hqs hb =>
        obtain ⟨k, htrace⟩ := exists_take_of_prefix hqs hb
        have hle' := nibRead_adjustedGsw_le_gc hle ch raw nxt
        exact .inr ⟨nxt, _, k, next_enabled _ _ nxt hn, hle', le_five_of_le_gc (hgain nxt) hle', .inl htrace⟩

/-! ### Replies used up (R60) -/

/-- One primitive takes a settled reply, or a free one where none is settled. -/
theorem Bus.issue_replies (P : Params) (p : BusPrim) (b : Bus) :
    ((b.issue P p).script.length + 1 = b.script.length ∧ (b.issue P p).drawn = b.drawn) ∨
    (b.script.length = 0 ∧ (b.issue P p).script.length = 0 ∧ (b.issue P p).drawn = b.drawn + 1) := by
  rw [Bus.issue, Bus.after_script, Bus.after_drawn]
  match h : b.script with
  | [] => rw [Bus.draw_nil b h]; exact .inr ⟨rfl, congrArg List.length h, rfl⟩
  | r :: rest => rw [Bus.draw_cons b r rest h]; exact .inl ⟨rfl, rfl⟩

theorem Bus.issueAll_replies (P : Params) (ps : List BusPrim) (b : Bus) :
    (b.issueAll P ps).script.length ≤ b.script.length ∧ b.drawn ≤ (b.issueAll P ps).drawn ∧
    repliesUsed b (b.issueAll P ps) = ps.length := by
  induction ps generalizing b with
  | nil => exact ⟨le_rfl, le_rfl, by rw [Bus.issueAll_nil, repliesUsed]; simp⟩
  | cons p ps ih =>
    obtain ⟨hscript, hdrawn, hused⟩ := ih (b.issue P p)
    have hone := b.issue_replies P p
    rw [repliesUsed] at hused ⊢
    rw [Bus.issueAll_cons, List.length_cons]
    omega

theorem State.runBus_bus {α : Type} (s : State) (o : BusOut α) (f : α → BusResult) : (s.runBus o f).bus = o.bus := by
  rcases s.runBus_cases o f with ⟨r, e⟩ | ⟨t, p, e⟩ <;> rw [e] <;> rfl

/-- Every operation leaves the bus after some list of primitives. -/
theorem exists_issueAll_of_exec {i : Instr} {s t : State} (h : exec i s = .next t) :
    ∃ ps, t.bus = s.bus.issueAll s.params ps := by
  cases i with
  | start =>
    cases h
    rcases startOp_bus s with hbus | ⟨c, -, qs, -, hb⟩
    · exact ⟨[], hbus⟩
    · exact ⟨qs, hb⟩
  | poll =>
    cases h
    rcases pollOp_bus s with hbus | ⟨-, ⟨qs, -, hb⟩ | ⟨ch, nxt, raw, qs, -, -, hb⟩⟩
    · exact ⟨[], hbus⟩
    · exact ⟨qs, hb⟩
    · exact ⟨qs, hb⟩
  | statusRead =>
    cases h
    obtain ⟨qs, -, hb⟩ := Bus.exists_prefix_statusRead_bus s.params s.bus
    exact ⟨qs, (s.runBus_bus _ _).trans hb⟩
  | resultRead =>
    cases h
    obtain ⟨qs, -, hb⟩ := Bus.exists_prefix_resultRead_bus s.params s.bus
    exact ⟨qs, (s.runBus_bus _ _).trans hb⟩
  | startConv c g =>
    cases h
    obtain ⟨qs, -, hb⟩ := Bus.exists_prefix_startConv_bus s.params s.bus c g
    exact ⟨qs, (s.runBus_bus _ _).trans hb⟩
  | _ => cases h; exact ⟨[], rfl⟩

/-- Settles O46: the trace grows by the primitives issued, and each has taken one reply. -/
theorem oneReplyPerPrimitive : Obligations.OneReplyPerPrimitive := by
  unfold Obligations.OneReplyPerPrimitive
  intro i s t h
  obtain ⟨ps, hbus⟩ := exists_issueAll_of_exec h
  obtain ⟨-, -, hused⟩ := s.bus.issueAll_replies s.params ps
  rw [hbus, hused, Bus.issueAll_trace, List.length_append]

end Sys2Proof.Machine

/-!
PROOFS. What the device holds (spec/44_conversion_state_machine.md section 4, spec/93_implementation_defined.md G7). Its
config register changes only where it takes a START_CONV; a REG_READ writes one byte, which is too short for that. Where no
reply lets it take a transaction behind an error, a START_CONV that is not done leaves it as it was.
-/

namespace Sys2Proof.Machine

/-! ### The device under one primitive, however it is answered -/

/-- A reply lets a conversion end or not, and then takes the primitive's step. -/
theorem exists_replyEffect_eq_step (P : Params) (p : BusPrim) (d : Device) (r : BusReply) :
    ∃ finished acted, replyEffect P p d r = (d.finish finished).step P p acted := by
  cases r with
  | ok data => exact ⟨none, true, rfl⟩
  | err acted => exact ⟨none, acted, rfl⟩
  | never acted => exact ⟨none, acted, rfl⟩
  | device finished => exact ⟨finished, true, rfl⟩

theorem Bus.exists_issue_dev_eq_step (P : Params) (p : BusPrim) (b : Bus) :
    ∃ finished acted, (b.issue P p).dev = (b.dev.finish finished).step P p acted := by
  obtain ⟨finished, acted, h⟩ := exists_replyEffect_eq_step P p b.dev b.draw.1
  exact ⟨finished, acted, by rw [Bus.issue, Bus.after_dev, Bus.draw_dev, h]⟩

/-- `Bus.begin` empties the device's inbox. -/
@[simp] theorem Bus.issue_beginTxn_inbox (P : Params) (a : BitVec 7) (b : Bus) :
    (b.issue P (.beginTxn a)).dev.inbox = [] := by
  obtain ⟨finished, acted, h⟩ := b.exists_issue_dev_eq_step P (.beginTxn a)
  rw [h]
  rfl

/-- `Bus.write` adds its byte. -/
@[simp] theorem Bus.issue_writeByte_inbox (P : Params) (x : Byte) (b : Bus) :
    (b.issue P (.writeByte x)).dev.inbox = b.dev.inbox ++ [x] := by
  obtain ⟨finished, acted, h⟩ := b.exists_issue_dev_eq_step P (.writeByte x)
  rw [h, Device.step, Device.finish_inbox]

/-- Only the end of a transaction can write the config register. -/
theorem Bus.issue_config_of_ne_endTxn (P : Params) {p : BusPrim} (hp : p ≠ .endTxn) (b : Bus) :
    (b.issue P p).dev.config = b.dev.config := by
  obtain ⟨finished, acted, h⟩ := b.exists_issue_dev_eq_step P p
  obtain ⟨hconf, -⟩ := Device.step_config_done P (acted := acted) (fun e => absurd e hp) (b.dev.finish finished)
  rw [h, hconf, Device.finish_config]

theorem Bus.issueAll_config_of_not_mem (P : Params) {ps : List BusPrim} (h : .endTxn ∉ ps) (b : Bus) :
    (b.issueAll P ps).dev.config = b.dev.config := by
  induction ps generalizing b with
  | nil => rfl
  | cons p ps ih =>
    obtain ⟨hp, hps⟩ := List.ne_and_not_mem_of_not_mem_cons h
    exact (ih hps _).trans (b.issue_config_of_ne_endTxn P hp.symm)

/-- A transaction of one byte sets the selector alone. -/
theorem Device.accept_of_inbox_singleton (P : Params) {d : Device} {x : Byte} (h : d.inbox = [x]) :
    d.accept P = { d with selector := x, inbox := [] } := by
  rw [Device.accept, h]

/-- The transaction of a START_CONV stores its channel and gain code. -/
theorem Device.accept_of_inbox_start (P : Params) {c : Chan} {g : Code} {d : Device}
    (h : d.inbox = [P.ptrConfig, configMsb P c g, P.cfgLsb]) :
    (d.accept P).config = (configMsb P c g).extractLsb' 0 7 ++ P.cfgLsb := by
  have hstart : (configMsb P c g).getLsbD 7 = true := by
    rw [configMsb]; simp only [BitVec.getLsbD_append]; simp
  rw [Device.accept, h]
  exact congrArg Device.config (if_pos ⟨rfl, hstart⟩)

theorem Bus.issue_endTxn_config_of_singleton (P : Params) {b : Bus} {x : Byte} (h : b.dev.inbox = [x]) :
    (b.issue P .endTxn).dev.config = b.dev.config := by
  obtain ⟨finished, acted, hdev⟩ := b.exists_issue_dev_eq_step P .endTxn
  have hinbox : (b.dev.finish finished).inbox = [x] := by rw [Device.finish_inbox, h]
  rw [hdev, Device.step]
  cases acted with
  | false => exact Device.finish_config b.dev finished
  | true =>
    rw [if_pos rfl, Device.accept_of_inbox_singleton P hinbox]
    exact Device.finish_config b.dev finished

/-! ### REG_READ leaves the config register (R69 b) -/

theorem Bus.issueAll_readPrims_config (P : Params) (ptr : Byte) {qs : List BusPrim} (hqs : qs <+: readPrims P ptr)
    (b : Bus) : (b.issueAll P qs).dev.config = b.dev.config := by
  have hopen : (b.issueAll P [.beginTxn P.devAddr, .writeByte ptr]).dev.config = b.dev.config :=
    b.issueAll_config_of_not_mem P (by simp)
  have hclose : (b.issueAll P [.beginTxn P.devAddr, .writeByte ptr, .endTxn]).dev.config = b.dev.config :=
    (Bus.issue_endTxn_config_of_singleton P (x := ptr) (by simp)).trans hopen
  have hread : (b.issueAll P (readPrims P ptr)).dev.config = b.dev.config :=
    (Bus.issue_config_of_ne_endTxn P (p := .readBytes 2) nofun _).trans hclose
  have hlen : qs.length ≤ 4 := hqs.length_le
  rw [List.prefix_iff_eq_take.mp hqs]
  interval_cases qs.length
  · rfl
  · exact b.issueAll_config_of_not_mem P (by simp [readPrims])
  · exact hopen
  · exact hclose
  · exact hread

theorem Bus.statusRead_config (P : Params) (b : Bus) : (b.statusRead P).bus.dev.config = b.dev.config := by
  obtain ⟨qs, hqs, hbus⟩ := b.exists_prefix_statusRead_bus P
  rw [hbus, Bus.issueAll_readPrims_config P _ hqs]

theorem Bus.resultRead_config (P : Params) (b : Bus) : (b.resultRead P).bus.dev.config = b.dev.config := by
  obtain ⟨qs, hqs, hbus⟩ := b.exists_prefix_resultRead_bus P
  rw [hbus, Bus.issueAll_readPrims_config P _ hqs]

/-! ### START_CONV and the config register (R69 a, R223) -/

theorem Bus.calls_append_singleton (P : Params) (t : Txn) (ps : List BusPrim) (p : BusPrim) (d : Reg16) (b : Bus) :
    b.calls P t (ps ++ [p]) d = (b.calls P t ps d).andThen fun _ b => b.call P t p := by
  induction ps generalizing b d with
  | nil =>
    rw [List.nil_append, Bus.calls_cons, Bus.calls_nil, BusOut.andThen_done]
    cases b.call P t p <;> rfl
  | cons q ps ih =>
    rw [List.cons_append, Bus.calls_cons, Bus.calls_cons]
    cases b.call P t q with
    | done d' b' => exact ih d' b'
    | failed => rfl
    | stuck => rfl

/-- How the end of a transaction is answered decides whether the device takes it: it does where the end is done, and where it
is not, the reply says so. -/
theorem Bus.call_endTxn (P : Params) (t : Txn) (b : Bus) :
    (∃ d finished, b.call P t .endTxn = .done d (b.issue P .endTxn) ∧
      (b.issue P .endTxn).dev = (b.dev.finish finished).accept P) ∨
    (∃ acted, (b.draw.1 = .err acted ∨ b.draw.1 = .never acted) ∧ (∀ d b', b.call P t .endTxn ≠ .done d b') ∧
      (b.issue P .endTxn).dev = b.dev.step P .endTxn acted) := by
  have hdev : (b.issue P .endTxn).dev = replyEffect P .endTxn b.dev b.draw.1 := by
    rw [Bus.issue, Bus.after_dev, Bus.draw_dev]
  have hcall : b.call P t .endTxn =
      match replyAnswer P .endTxn b.dev b.draw.1 with
      | none => .stuck t .endTxn (b.issue P .endTxn)
      | some (true, data) => .done data (b.issue P .endTxn)
      | some (false, _) => .failed t .onEnd (b.issue P .endTxn) := by
    rw [Bus.call]; rfl
  rw [hdev, hcall]
  cases b.draw.1 with
  | ok data => exact .inl ⟨data, none, rfl, rfl⟩
  | err acted => exact .inr ⟨acted, .inl rfl, nofun, rfl⟩
  | never acted => exact .inr ⟨acted, .inr rfl, nofun, rfl⟩
  | device finished => exact .inl ⟨0#16, finished, rfl, rfl⟩

/-- START_CONV without the end of its transaction. -/
def openStartPrims (P : Params) (c : Chan) (g : Code) : List BusPrim :=
  [.beginTxn P.devAddr, .writeByte P.ptrConfig, .writeByte (configMsb P c g), .writeByte P.cfgLsb]

theorem startPrims_eq_append (P : Params) (c : Chan) (g : Code) :
    startPrims P c g = openStartPrims P c g ++ [.endTxn] := rfl

section
variable {P : Params} {c : Chan} {g : Code} {b : Bus}

@[simp] theorem Bus.issueAll_openStartPrims_inbox :
    (b.issueAll P (openStartPrims P c g)).dev.inbox = [P.ptrConfig, configMsb P c g, P.cfgLsb] := by
  simp [openStartPrims]

/-- START_CONV stops before the end of its transaction, or comes to it. -/
theorem Bus.startConv_cases (P : Params) (c : Chan) (g : Code) (b : Bus) :
    ((∀ b', b.startConv P c g ≠ .done () b') ∧ (b.startConv P c g).bus.dev.config = b.dev.config) ∨
    b.startConv P c g =
      ((b.issueAll P (openStartPrims P c g)).call P .startConv .endTxn).andThen fun _ b => .done () b := by
  obtain ⟨qs, hqs, hbus⟩ := Bus.exists_prefix_calls_bus P .startConv (openStartPrims P c g) b 0#16
  have hopen : .endTxn ∉ openStartPrims P c g := by simp [openStartPrims]
  have hconf : (b.issueAll P qs).dev.config = b.dev.config :=
    b.issueAll_config_of_not_mem P fun h => hopen (hqs.subset h)
  rw [Bus.startConv, startPrims_eq_append, Bus.calls_append_singleton]
  rcases hc : b.calls P .startConv (openStartPrims P c g) 0#16 with ⟨a, b₁⟩ | ⟨t, k, b₁⟩ | ⟨t, p, b₁⟩
  · rw [Bus.calls_done_bus P _ _ b hc]; exact .inr rfl
  · rw [hc] at hbus; exact .inl ⟨nofun, (congrArg (fun b : Bus => b.dev.config) hbus).trans hconf⟩
  · rw [hc] at hbus; exact .inl ⟨nofun, (congrArg (fun b : Bus => b.dev.config) hbus).trans hconf⟩

/-- R69 a: after a START_CONV that is done, the device holds its channel and gain code. -/
theorem Bus.echo_of_startConv_done {b' : Bus} (h : b.startConv P c g = .done () b') :
    echoChan b'.dev = c ∧ echoGain b'.dev = g := by
  apply echo_configMsb P
  rcases b.startConv_cases P c g with ⟨hnot, -⟩ | hlast
  · exact absurd h (hnot b')
  · rw [hlast] at h
    rcases Bus.call_endTxn P .startConv (b.issueAll P (openStartPrims P c g)) with
      ⟨d, finished, hcall, hdev⟩ | ⟨acted, -, hnot, -⟩
    · rw [hcall] at h
      cases h
      rw [hdev]
      exact Device.accept_of_inbox_start P (by rw [Device.finish_inbox, Bus.issueAll_openStartPrims_inbox])
    · obtain ⟨d, hd, -⟩ := BusOut.exists_of_andThen_done (f := fun _ => ()) h
      exact absurd hd (hnot d b')

end

/-! ### The replies still settled -/

theorem Bus.issue_script (P : Params) (p : BusPrim) (b : Bus) : (b.issue P p).script = b.script.tail := by
  rw [Bus.issue, Bus.after_script]
  match h : b.script with
  | [] => rw [Bus.draw_nil b h]; exact h
  | r :: rest => rw [Bus.draw_cons b r rest h]; rfl

theorem Bus.issueAll_script (P : Params) (ps : List BusPrim) (b : Bus) :
    (b.issueAll P ps).script = b.script.drop ps.length := by
  induction ps generalizing b with
  | nil => rfl
  | cons p ps ih => rw [Bus.issueAll_cons, ih, Bus.issue_script, List.drop_tail, List.length_cons]

/-- The next reply is a settled one where one is left. -/
theorem Bus.draw_mem_script {b : Bus} (h : 0 < b.script.length) : b.draw.1 ∈ b.script := by
  match hs : b.script with
  | [] => rw [hs] at h; cases h
  | r :: rest => rw [Bus.draw_cons b r rest hs]; exact List.mem_cons_self

/-- At least `n` replies are settled, and none lets the device take a transaction behind an error. -/
def Bus.Honest (n : Nat) (b : Bus) : Prop := n ≤ b.script.length ∧ ∀ r ∈ b.script, r.notHalf = true

theorem Bus.Honest.issueAll {n : Nat} {b : Bus} {ps : List BusPrim} (P : Params) (h : b.Honest (ps.length + n)) :
    (b.issueAll P ps).Honest n := by
  obtain ⟨hlen, hhalf⟩ := h
  rw [Bus.Honest, Bus.issueAll_script, List.length_drop]
  exact ⟨by omega, fun r hr => hhalf r (List.mem_of_mem_drop hr)⟩

/-- R223: a START_CONV that is not done leaves what the device holds. -/
theorem Bus.startConv_config_of_not_done {P : Params} {c : Chan} {g : Code} {b : Bus} (hb : b.Honest 5)
    (hnot : ∀ b', b.startConv P c g ≠ .done () b') : (b.startConv P c g).bus.dev.config = b.dev.config := by
  rcases b.startConv_cases P c g with ⟨-, hconf⟩ | hlast
  · exact hconf
  · obtain ⟨hlen, hhalf⟩ := Bus.Honest.issueAll (n := 1) (ps := openStartPrims P c g) P hb
    rcases Bus.call_endTxn P .startConv (b.issueAll P (openStartPrims P c g)) with
      ⟨d, finished, hcall, -⟩ | ⟨acted, hreply, -, hdev⟩
    · exact absurd (by rw [hlast, hcall]; rfl) (hnot _)
    · have hacted : acted = false := by
        have hr := hhalf _ (Bus.draw_mem_script hlen)
        rcases hreply with e | e <;> rw [e] at hr <;> simpa [BusReply.notHalf] using hr
      have hopen : (b.issueAll P (openStartPrims P c g)).dev.config = b.dev.config :=
        b.issueAll_config_of_not_mem P (by simp [openStartPrims])
      rw [hlast, BusOut.bus_andThen_done, Bus.call_bus_issue, hdev, hacted]
      exact hopen

/-! ### The echo invariant (R223) -/

/-- The invariant speaks of the masks, the gain codes, `armed` and the config register alone. -/
theorem echoInv_of_config {s t : State} (hinv : EchoInv s) (hregs : t.regs = s.regs)
    (hconf : t.bus.dev.config = s.bus.dev.config) : EchoInv t := by
  simp only [EchoInv, echoChan, echoGain, hregs, hconf] at hinv ⊢
  exact hinv

theorem startAt_keeps_echoInv {s : State} {c : Chan} (hb : s.bus.Honest 5) (hinv : EchoInv s)
    (hc : next s.regs.cm none = some c) : EchoInv (startAt s c) := by
  rw [startAt]
  have hnot := Bus.startConv_config_of_not_done (P := s.params) (c := c) (g := s.regs.gs c) hb
  rcases hout : s.bus.startConv s.params c (s.regs.gs c) with ⟨u, b⟩ | ⟨t, k, b⟩ | ⟨t, p, b⟩ <;> rw [hout] at hnot
  · obtain ⟨hch, hgain⟩ := Bus.echo_of_startConv_done hout
    intro _
    simp only [State.onBus, State.respond_regs, State.respond_bus, hch, hgain]
    exact ⟨next_enabled _ _ c hc, rfl⟩
  · exact echoInv_of_config hinv rfl (hnot nofun)
  · exact echoInv_of_config hinv rfl (hnot nofun)

theorem startOp_keeps_echoInv {s : State} (hb : s.bus.Honest 5) (hinv : EchoInv s) : EchoInv (startOp s) := by
  rcases startOp_cases s with ⟨-, e⟩ | ⟨-, c, hc, e⟩ <;> rw [e]
  · exact hinv
  · exact startAt_keeps_echoInv hb hinv hc

/-- A committed POLL has just sent the device the next channel and its updated code. -/
theorem echoInv_pollCommit {s : State} {st : StatusBits} {raw : Raw} {nxt : Chan} {b b' : Bus}
    (hn : next s.regs.cm (some st.ch) = some nxt)
    (h : b.startConv s.params nxt (nibRead (adjustedGsw s.regs st.ch raw) nxt) = .done () b') (r : Response) :
    EchoInv (s.respond (pollCommit s.regs st raw) r b') := by
  obtain ⟨hcm, -, -, hgsw, -⟩ := pollCommit_fields s.regs st raw
  obtain ⟨hch, hgain⟩ := Bus.echo_of_startConv_done h
  intro _
  simp only [State.respond_regs, State.respond_bus, Regs.gs, hcm, hgsw, hch, hgain, and_true]
  exact next_enabled _ _ nxt hn

theorem pollOp_keeps_echoInv {s : State} (hb : s.bus.Honest 13) (hinv : EchoInv s) : EchoInv (pollOp s) := by
  have hstatus := s.bus.statusRead_config s.params
  rcases pollOp_cases s with ⟨-, e⟩ | ⟨-, -, e⟩ | ⟨-, -, ⟨t, k, b, h, e⟩ | ⟨t, p, b, h, e⟩ | ⟨st, b, h, -, e⟩ |
    ⟨st, b, h, -, hrest⟩⟩
  · rw [e]; exact hinv
  · rw [e]; exact hinv
  · rw [e]; rw [h] at hstatus; exact echoInv_of_config hinv rfl hstatus
  · rw [e]; rw [h] at hstatus; exact echoInv_of_config hinv rfl hstatus
  · rw [e]; rw [h] at hstatus; exact echoInv_of_config hinv rfl hstatus
  · rw [h] at hstatus
    have hresult := b.resultRead_config s.params
    rcases hrest with ⟨t, k, b', h', e⟩ | ⟨t, p, b', h', e⟩ | ⟨raw, b', nxt, h', hn, hlast⟩
    · rw [e]; rw [h'] at hresult; exact echoInv_of_config hinv rfl (hresult.trans hstatus)
    · rw [e]; rw [h'] at hresult; exact echoInv_of_config hinv rfl (hresult.trans hstatus)
    · rw [h'] at hresult
      have hb₁ : b.Honest 9 := by
        rw [Bus.statusRead_done_bus h]
        exact Bus.Honest.issueAll (ps := readPrims s.params s.params.ptrConfig) s.params hb
      have hb₂ : b'.Honest 5 := by
        rw [Bus.resultRead_done_bus h']
        exact Bus.Honest.issueAll (ps := readPrims s.params s.params.ptrResult) s.params hb₁
      have hnot := Bus.startConv_config_of_not_done (P := s.params) (c := nxt)
        (g := nibRead (adjustedGsw s.regs st.ch raw) nxt) hb₂
      have hkept := hresult.trans hstatus
      rcases hlast with ⟨t, k, b'', h'', e⟩ | ⟨t, p, b'', h'', e⟩ | ⟨b'', h'', e⟩ <;> rw [e]
      · rw [h''] at hnot; exact echoInv_of_config hinv rfl ((hnot nofun).trans hkept)
      · rw [h''] at hnot; exact echoInv_of_config hinv rfl ((hnot nofun).trans hkept)
      · exact echoInv_pollCommit hn h'' _

/-- Settles O58: START and POLL leave what the device holds, or hand it an enabled channel at its stored code; CONFIGURE
clears `armed`; the accessors touch neither. -/
theorem echoInvariantKept : Obligations.EchoInvariantKept := by
  unfold Obligations.EchoInvariantKept
  intro i s t hhost hlen hhalf hinv h
  cases i with
  | configure cm am ceil => cases h; exact nofun
  | start => cases h; exact startOp_keeps_echoInv ⟨by omega, hhalf⟩ hinv
  | poll => cases h; exact pollOp_keeps_echoInv ⟨hlen, hhalf⟩ hinv
  | statusRead => cases hhost
  | resultRead => cases hhost
  | startConv c g => cases hhost
  | _ => cases h; exact hinv

/-- Settles O59: `armed` is 0. -/
theorem echoInvariantAtReset : Obligations.EchoInvariantAtReset := by
  unfold Obligations.EchoInvariantAtReset
  exact nofun

end Sys2Proof.Machine

/-!
PROOFS. A POLL answered by the faithful device (R223 a, b; spec/93_implementation_defined.md G7): its STATUS_READ gets the
channel and the gain code the device holds, and those are what a committed POLL puts into the cache.
-/

namespace Sys2Proof.Machine

/-- R103: the config register reads as its channel and gain code below the ready bit. -/
theorem statusOf_status (d : Device) :
    statusOf d.status = { devReady := d.done, ch := echoChan d, gain := echoGain d } := by
  have hready : (BitVec.ofBool d.done ++ d.config).getLsbD 15 = d.done := by
    rw [BitVec.getLsbD_append]; simp
  rw [statusOf, Device.status, hready, BitVec.extractLsb'_append_eq_of_add_le (by decide),
    BitVec.extractLsb'_append_eq_of_add_le (by decide)]
  rfl

section
variable (P : Params) (t : Txn) {b : Bus} {finished : Option Reg16} {rest : List BusReply}

/-- A primitive that reads nothing is done when the device answers it. -/
theorem Bus.call_device {p : BusPrim} (h : b.script = .device finished :: rest) (hp : ∀ n, p ≠ .readBytes n) :
    b.call P t p = .done 0#16 { script := rest, drawn := b.drawn, trace := b.trace ++ [p]
                                dev := (b.dev.finish finished).step P p true } := by
  have hanswer : (b.dev.finish finished).answer P p = (true, 0#16) := by
    cases p with
    | readBytes n => exact absurd rfl (hp n)
    | _ => rfl
  simp [Bus.call, Bus.draw_cons b _ _ h, replyAnswer, hanswer, Bus.after, replyEffect]

/-- A read with the selector of the config register gets that register. -/
theorem Bus.call_readBytes_device {n : Nat} (h : b.script = .device finished :: rest)
    (hsel : b.dev.selector = P.ptrConfig) :
    b.call P t (.readBytes n) = .done (b.dev.finish finished).status
      { script := rest, drawn := b.drawn, trace := b.trace ++ [.readBytes n]
        dev := (b.dev.finish finished).step P (.readBytes n) true } := by
  simp [Bus.call, Bus.draw_cons b _ _ h, replyAnswer, Device.answer, hsel, Bus.after, replyEffect]

end

/-- Four replies of the faithful device, with what each lets end. -/
theorem exists_four_device_replies {script : List BusReply} (hlen : 4 ≤ script.length)
    (hdev : ∀ r ∈ script, r.isDevice = true) :
    ∃ f₀ f₁ f₂ f₃ rest, script = .device f₀ :: .device f₁ :: .device f₂ :: .device f₃ :: rest := by
  have hone {r : BusReply} (h : r.isDevice = true) : ∃ f, r = .device f := by
    cases r with
    | device f => exact ⟨f, rfl⟩
    | _ => cases h
  match script, hlen with
  | r₀ :: r₁ :: r₂ :: r₃ :: rest, _ =>
    obtain ⟨f₀, rfl⟩ := hone (hdev r₀ (by simp))
    obtain ⟨f₁, rfl⟩ := hone (hdev r₁ (by simp))
    obtain ⟨f₂, rfl⟩ := hone (hdev r₂ (by simp))
    obtain ⟨f₃, rfl⟩ := hone (hdev r₃ (by simp))
    exact ⟨f₀, f₁, f₂, f₃, rest, rfl⟩

/-- The faithful device answers a STATUS_READ with the channel and gain code it holds. -/
theorem Bus.statusRead_of_device {P : Params} {b b' : Bus} {st : StatusBits} (hlen : 4 ≤ b.script.length)
    (hdev : ∀ r ∈ b.script, r.isDevice = true) (h : b.statusRead P = .done st b') :
    st.ch = echoChan b.dev ∧ st.gain = echoGain b.dev := by
  obtain ⟨f₀, f₁, f₂, f₃, rest, hscript⟩ := exists_four_device_replies hlen hdev
  obtain ⟨d, hd, rfl⟩ := BusOut.exists_of_andThen_done h
  rw [Bus.regRead, readPrims, Bus.calls_cons, Bus.call_device P _ (p := .beginTxn _) hscript nofun, BusOut.andThen_done,
    Bus.calls_cons, Bus.call_device P _ (p := .writeByte _) rfl nofun, BusOut.andThen_done,
    Bus.calls_cons, Bus.call_device P _ (p := .endTxn) rfl nofun, BusOut.andThen_done,
    Bus.calls_cons, Bus.call_readBytes_device P _ rfl (by simp [Device.step, Device.accept]), BusOut.andThen_done,
    Bus.calls_nil] at hd
  cases hd
  rw [statusOf_status]
  simp [echoChan, echoGain, Device.step, Device.accept]

/-- Settles O60: `ready` went from 0 to 1, so the POLL has committed a valid sample under the status its device gave. -/
theorem faithfulDeviceSurfacesEnabledChannel : Obligations.FaithfulDeviceSurfacesEnabledChannel := by
  unfold Obligations.FaithfulDeviceSurfacesEnabledChannel
  intro s t hinv harmed hready hlen hdev h hset
  obtain ⟨henabled, hgain⟩ := hinv harmed
  cases ends_of_exec h with
  | committed st raw nxt b b' b'' _ _ hstatus =>
    obtain ⟨hch, hg⟩ := Bus.statusRead_of_device (by omega) hdev hstatus
    obtain ⟨-, -, -, -, -, hvalid | hovf⟩ := pollCommit_fields s.regs st raw
    · obtain ⟨-, -, hcache, -⟩ := hvalid
      rw [State.respond_regs, hcache, hch, hg]
      exact ⟨henabled, hgain.symm⟩
    · obtain ⟨hkept, -⟩ := hovf
      exact absurd (hset.symm.trans (hkept.trans hready)) nofun
  | _ => exact absurd (hset.symm.trans hready) nofun

end Sys2Proof.Machine
